-- ==== Sys2Proof/Word.lean ====
section
/-! DEFINITION. The two widths of the machine (spec/00_scope.md R5, R7): 8-bit data and 16-bit addresses. -/

namespace Sys2Proof

/-- A byte: the width of A, X, Y, S, P and of one memory cell (R5). -/
abbrev Byte := BitVec 8

/-- A 16-bit address or program counter value (R5). -/
abbrev Word := BitVec 16

end Sys2Proof
end

