-- ==== Sys2Proof/Syntax.lean ====
section
/-! DEFINITION. The instructions as syntax (spec/30_encoding.md, spec/40 to 47): one constructor of `Instr` per
instruction rule, its operand form an argument. The 256 rows of spec/opcode_table.json are these constructors with
their modes (log 1). -/

namespace Sys2Proof

/-- The mode names of R9. `none` is the table's mode of an unimplemented opcode. -/
inductive Mode where
  | imp | acc | imm | zp | zpx | zpy | abs | absx | absy | izx | izy | izp | ind | iax | rel | zpr | brk | none
  deriving DecidableEq, Repr

/-- A memory operand form: the modes that have an effective address (R89 to R97), with the operand byte or word. -/
inductive Addr where
  /-- zero page (R89) -/
  | zp (z : Byte)
  /-- zero page,X (R90) -/
  | zpx (z : Byte)
  /-- zero page,Y (R91) -/
  | zpy (z : Byte)
  /-- absolute (R92) -/
  | abs (w : Word)
  /-- absolute,X (R93) -/
  | absx (w : Word)
  /-- absolute,Y (R94) -/
  | absy (w : Word)
  /-- (zp,X) (R95) -/
  | izx (z : Byte)
  /-- (zp),Y (R96) -/
  | izy (z : Byte)
  /-- (zp) (R97) -/
  | izp (z : Byte)
  deriving DecidableEq, Repr

/-- The operand of a read-type instruction (R130): an immediate byte or a memory byte. -/
inductive Operand where
  | imm (v : Byte)
  | mem (m : Addr)
  deriving DecidableEq, Repr

/-- The operand of a shift or rotate (R200): the accumulator or a memory byte. -/
inductive Target where
  | acc
  | mem (m : Addr)
  deriving DecidableEq, Repr

/-- The two decode toggles of a configuration (R103): P_VENDOR_EXT and P_PAUSE_EXT. -/
structure Extensions where
  vendor : Bool
  pause : Bool
  deriving DecidableEq, Repr

/-- The instruction set, in the order of the spec's family files 40 to 47. -/
inductive Instr where
  -- 40: loads, stores, transfers (R131 to R143)
  | lda (o : Operand) | ldx (o : Operand) | ldy (o : Operand)
  | sta (m : Addr) | stx (m : Addr) | sty (m : Addr) | stz (m : Addr)
  | tax | tay | txa | tya | tsx | txs
  -- 41: arithmetic and logic (R166 to R186); `bitImm` is BIT # (R176), `incA` and `decA` the accumulator forms
  | adc (o : Operand) | sbc (o : Operand)
  | and (o : Operand) | ora (o : Operand) | eor (o : Operand)
  | cmp (o : Operand) | cpx (o : Operand) | cpy (o : Operand)
  | bit (m : Addr) | bitImm (v : Byte)
  | inc (m : Addr) | incA | inx | iny
  | dec (m : Addr) | decA | dex | dey
  | tsb (m : Addr) | trb (m : Addr)
  -- 42: shifts and rotates (R201 to R204)
  | asl (t : Target) | lsr (t : Target) | rol (t : Target) | ror (t : Target)
  -- 43: flags (R220 to R226)
  | clc | sec | cli | sei | cld | sed | clv
  -- 44: stack (R242 to R249)
  | pha | php | phx | phy | pla | plp | plx | ply
  -- 45: control transfer (R261 to R277); the branch operand is the signed offset byte, `brk`'s the signature byte
  | bpl (r : Byte) | bmi (r : Byte) | bvc (r : Byte) | bvs (r : Byte) | bcc (r : Byte)
  | bcs (r : Byte) | bne (r : Byte) | beq (r : Byte) | bra (r : Byte)
  | jmp (w : Word) | jmpInd (w : Word) | jmpIax (w : Word)
  | jsr (w : Word) | rts | rti | brk (sig : Byte) | nop
  -- 46: vendor bit instructions (R301 to R304): zero-page byte, and for BBR and BBS the signed offset byte
  | rmb0 (z : Byte) | rmb1 (z : Byte) | rmb2 (z : Byte) | rmb3 (z : Byte)
  | rmb4 (z : Byte) | rmb5 (z : Byte) | rmb6 (z : Byte) | rmb7 (z : Byte)
  | smb0 (z : Byte) | smb1 (z : Byte) | smb2 (z : Byte) | smb3 (z : Byte)
  | smb4 (z : Byte) | smb5 (z : Byte) | smb6 (z : Byte) | smb7 (z : Byte)
  | bbr0 (z r : Byte) | bbr1 (z r : Byte) | bbr2 (z r : Byte) | bbr3 (z r : Byte)
  | bbr4 (z r : Byte) | bbr5 (z r : Byte) | bbr6 (z r : Byte) | bbr7 (z r : Byte)
  | bbs0 (z r : Byte) | bbs1 (z r : Byte) | bbs2 (z r : Byte) | bbs3 (z r : Byte)
  | bbs4 (z r : Byte) | bbs5 (z r : Byte) | bbs6 (z r : Byte) | bbs7 (z r : Byte)
  -- 47: pause opcodes (R322, R323) and an opcode on the unimplemented path (R324)
  | wai | stp | unimpl (op : Byte)
  deriving DecidableEq, Repr

/-- The mode of a memory operand. -/
def Addr.mode : Addr → Mode
  | .zp _ => .zp
  | .zpx _ => .zpx
  | .zpy _ => .zpy
  | .abs _ => .abs
  | .absx _ => .absx
  | .absy _ => .absy
  | .izx _ => .izx
  | .izy _ => .izy
  | .izp _ => .izp

/-- The mode of a read-type operand. -/
def Operand.mode : Operand → Mode
  | .imm _ => .imm
  | .mem m => m.mode

/-- The mode of a shift or rotate operand. -/
def Target.mode : Target → Mode
  | .acc => .acc
  | .mem m => m.mode

/-- The mode of an instruction, one of the names of R9 (the table's `mode` column). -/
def Instr.mode : Instr → Mode
  | .lda o | .ldx o | .ldy o | .adc o | .sbc o | .and o | .ora o | .eor o | .cmp o | .cpx o | .cpy o => o.mode
  | .sta m | .stx m | .sty m | .stz m | .bit m | .inc m | .dec m | .tsb m | .trb m => m.mode
  | .asl t | .lsr t | .rol t | .ror t => t.mode
  | .bitImm _ => .imm
  | .incA | .decA => .acc
  | .tax | .tay | .txa | .tya | .tsx | .txs | .inx | .iny | .dex | .dey => .imp
  | .clc | .sec | .cli | .sei | .cld | .sed | .clv => .imp
  | .pha | .php | .phx | .phy | .pla | .plp | .plx | .ply => .imp
  | .bpl _ | .bmi _ | .bvc _ | .bvs _ | .bcc _ | .bcs _ | .bne _ | .beq _ | .bra _ => .rel
  | .jmp _ | .jsr _ => .abs
  | .jmpInd _ => .ind
  | .jmpIax _ => .iax
  | .rts | .rti | .nop | .wai | .stp => .imp
  | .brk _ => .brk
  | .rmb0 _ | .rmb1 _ | .rmb2 _ | .rmb3 _ | .rmb4 _ | .rmb5 _ | .rmb6 _ | .rmb7 _ => .zp
  | .smb0 _ | .smb1 _ | .smb2 _ | .smb3 _ | .smb4 _ | .smb5 _ | .smb6 _ | .smb7 _ => .zp
  | .bbr0 _ _ | .bbr1 _ _ | .bbr2 _ _ | .bbr3 _ _ | .bbr4 _ _ | .bbr5 _ _ | .bbr6 _ _ | .bbr7 _ _ => .zpr
  | .bbs0 _ _ | .bbs1 _ _ | .bbs2 _ _ | .bbs3 _ _ | .bbs4 _ _ | .bbs5 _ _ | .bbs6 _ _ | .bbs7 _ _ => .zpr
  | .unimpl _ => .none

end Sys2Proof
end

