-- ==== Sys2Proof/WellFormed.lean ====
section
/-! DEFINITION. Which instructions exist: the operand forms each instruction rule lists, the gating of the vendor and
pause extensions (R103), and the opcodes that lie on the unimplemented path (R104). -/

namespace Sys2Proof

/-- The modes that an instruction rule's "Encoding:" line lists (R131 to R323); an opcode on the unimplemented path
has the table's mode `none`. -/
def Instr.forms : Instr → List Mode
  | .lda _ | .adc _ | .sbc _ | .and _ | .ora _ | .eor _ | .cmp _ =>
      [.imm, .zp, .zpx, .abs, .absx, .absy, .izx, .izy, .izp]
  | .ldx _ => [.imm, .zp, .zpy, .abs, .absy]
  | .ldy _ => [.imm, .zp, .zpx, .abs, .absx]
  | .cpx _ | .cpy _ => [.imm, .zp, .abs]
  | .sta _ => [.zp, .zpx, .abs, .absx, .absy, .izx, .izy, .izp]
  | .stx _ => [.zp, .zpy, .abs]
  | .sty _ => [.zp, .zpx, .abs]
  | .stz _ | .bit _ | .inc _ | .dec _ => [.zp, .zpx, .abs, .absx]
  | .tsb _ | .trb _ => [.zp, .abs]
  | .asl _ | .lsr _ | .rol _ | .ror _ => [.acc, .zp, .zpx, .abs, .absx]
  | .bitImm _ => [.imm]
  | .incA | .decA => [.acc]
  | .tax | .tay | .txa | .tya | .tsx | .txs | .inx | .iny | .dex | .dey => [.imp]
  | .clc | .sec | .cli | .sei | .cld | .sed | .clv => [.imp]
  | .pha | .php | .phx | .phy | .pla | .plp | .plx | .ply => [.imp]
  | .bpl _ | .bmi _ | .bvc _ | .bvs _ | .bcc _ | .bcs _ | .bne _ | .beq _ | .bra _ => [.rel]
  | .jmp _ | .jsr _ => [.abs]
  | .jmpInd _ => [.ind]
  | .jmpIax _ => [.iax]
  | .rts | .rti | .nop | .wai | .stp => [.imp]
  | .brk _ => [.brk]
  | .rmb0 _ | .rmb1 _ | .rmb2 _ | .rmb3 _ | .rmb4 _ | .rmb5 _ | .rmb6 _ | .rmb7 _ => [.zp]
  | .smb0 _ | .smb1 _ | .smb2 _ | .smb3 _ | .smb4 _ | .smb5 _ | .smb6 _ | .smb7 _ => [.zp]
  | .bbr0 _ _ | .bbr1 _ _ | .bbr2 _ _ | .bbr3 _ _ | .bbr4 _ _ | .bbr5 _ _ | .bbr6 _ _ | .bbr7 _ _ => [.zpr]
  | .bbs0 _ _ | .bbs1 _ _ | .bbs2 _ _ | .bbs3 _ _ | .bbs4 _ _ | .bbs5 _ _ | .bbs6 _ _ | .bbs7 _ _ => [.zpr]
  | .unimpl _ => [.none]

/-- The 44 opcodes without a meaning (R104, `Undef`), stated as the rule states them. -/
def undefOpcode (op : Byte) : Bool :=
  op &&& 0x0F == 0x03
  || (op &&& 0x0F == 0x0B && !(op == 0xCB || op == 0xDB))
  || [0x02, 0x22, 0x42, 0x62, 0x82, 0xC2, 0xE2].contains op
  || [0x44, 0x54, 0xD4, 0xF4].contains op
  || [0x5C, 0xDC, 0xFC].contains op

/-- `Unimpl(cfg)` of R104: the opcodes that take the unimplemented path under a configuration. -/
def unimplOpcode (ext : Extensions) (op : Byte) : Bool :=
  undefOpcode op
  || (!ext.vendor && (op &&& 0x0F == 0x07 || op &&& 0x0F == 0x0F))
  || (!ext.pause && (op == 0xCB || op == 0xDB))

/-- The extension an instruction needs, and for an opcode on the unimplemented path that it lies there (R103, R104). -/
def Instr.gateOpen (ext : Extensions) : Instr → Bool
  | .rmb0 _ | .rmb1 _ | .rmb2 _ | .rmb3 _ | .rmb4 _ | .rmb5 _ | .rmb6 _ | .rmb7 _ => ext.vendor
  | .smb0 _ | .smb1 _ | .smb2 _ | .smb3 _ | .smb4 _ | .smb5 _ | .smb6 _ | .smb7 _ => ext.vendor
  | .bbr0 _ _ | .bbr1 _ _ | .bbr2 _ _ | .bbr3 _ _ | .bbr4 _ _ | .bbr5 _ _ | .bbr6 _ _ | .bbr7 _ _ => ext.vendor
  | .bbs0 _ _ | .bbs1 _ _ | .bbs2 _ _ | .bbs3 _ _ | .bbs4 _ _ | .bbs5 _ _ | .bbs6 _ _ | .bbs7 _ _ => ext.vendor
  | .wai | .stp => ext.pause
  | .unimpl op => unimplOpcode ext op
  | .lda _ | .ldx _ | .ldy _ | .adc _ | .sbc _ | .and _ | .ora _ | .eor _ | .cmp _ | .cpx _ | .cpy _ => true
  | .sta _ | .stx _ | .sty _ | .stz _ | .bit _ | .inc _ | .dec _ | .tsb _ | .trb _ => true
  | .asl _ | .lsr _ | .rol _ | .ror _ | .bitImm _ | .incA | .decA => true
  | .tax | .tay | .txa | .tya | .tsx | .txs | .inx | .iny | .dex | .dey => true
  | .clc | .sec | .cli | .sei | .cld | .sed | .clv => true
  | .pha | .php | .phx | .phy | .pla | .plp | .plx | .ply => true
  | .bpl _ | .bmi _ | .bvc _ | .bvs _ | .bcc _ | .bcs _ | .bne _ | .beq _ | .bra _ => true
  | .jmp _ | .jsr _ | .jmpInd _ | .jmpIax _ | .rts | .rti | .brk _ | .nop => true

/-- An instruction of the set under the given toggles: its form is one its rule lists, and its gate is open. -/
def Instr.wf (ext : Extensions) (i : Instr) : Bool :=
  i.forms.contains i.mode && i.gateOpen ext

end Sys2Proof
end

