-- ==== Sys2Proof/Decode.lean ====
section
/-! DEFINITION. Decoding and encoding (spec/30_encoding.md R80 to R108). The decoder is the opcode matrix of R107; the
encoder is written from each instruction rule's "Encoding:" line, so the two are two readings of the spec. -/

namespace Sys2Proof

/-- `hi : lo` of R7: a word from its high and its low byte. -/
def wordOf (hi lo : Byte) : Word := BitVec.ofNat 16 (hi.toNat * 256 + lo.toNat)

/-- `w[7:0]`, the low byte of a word (R7). -/
def loByte (w : Word) : Byte := BitVec.ofNat 8 (w.toNat % 256)

/-- `w[15:8]`, the high byte of a word (R7). -/
def hiByte (w : Word) : Byte := BitVec.ofNat 8 (w.toNat / 256)

/-- One cell of the opcode matrix: what the opcode is built into from its operand bytes, and the extension it needs
(R81 for the formats, R103 for the gating). -/
inductive Entry where
  /-- an opcode of `Undef` (R104) -/
  | undef
  /-- format F1, no operand byte -/
  | imp (i : Instr)
  /-- format F2, one operand byte -/
  | byte (f : Byte → Instr)
  /-- format F3 with a 16-bit operand, low byte first (R83) -/
  | word (f : Word → Instr)
  /-- a vendor opcode of format F2 -/
  | vendorByte (f : Byte → Instr)
  /-- a vendor opcode of format F3, mode `zpr` -/
  | vendorPair (f : Byte → Byte → Instr)
  /-- a pause opcode, format F1 -/
  | pauseImp (i : Instr)

/-- Row 0x of the opcode matrix. -/
def opcodeRow0 : List Entry :=
  [.byte .brk, .byte fun z => .ora (.mem (.izx z)), .undef, .undef,
   .byte fun z => .tsb (.zp z), .byte fun z => .ora (.mem (.zp z)), .byte fun z => .asl (.mem (.zp z)), .vendorByte .rmb0,
   .imp .php, .byte fun v => .ora (.imm v), .imp (.asl .acc), .undef,
   .word fun w => .tsb (.abs w), .word fun w => .ora (.mem (.abs w)), .word fun w => .asl (.mem (.abs w)), .vendorPair .bbr0]

/-- Row 1x of the opcode matrix. -/
def opcodeRow1 : List Entry :=
  [.byte .bpl, .byte fun z => .ora (.mem (.izy z)), .byte fun z => .ora (.mem (.izp z)), .undef,
   .byte fun z => .trb (.zp z), .byte fun z => .ora (.mem (.zpx z)), .byte fun z => .asl (.mem (.zpx z)), .vendorByte .rmb1,
   .imp .clc, .word fun w => .ora (.mem (.absy w)), .imp .incA, .undef,
   .word fun w => .trb (.abs w), .word fun w => .ora (.mem (.absx w)), .word fun w => .asl (.mem (.absx w)), .vendorPair .bbr1]

/-- Row 2x of the opcode matrix. -/
def opcodeRow2 : List Entry :=
  [.word .jsr, .byte fun z => .and (.mem (.izx z)), .undef, .undef,
   .byte fun z => .bit (.zp z), .byte fun z => .and (.mem (.zp z)), .byte fun z => .rol (.mem (.zp z)), .vendorByte .rmb2,
   .imp .plp, .byte fun v => .and (.imm v), .imp (.rol .acc), .undef,
   .word fun w => .bit (.abs w), .word fun w => .and (.mem (.abs w)), .word fun w => .rol (.mem (.abs w)), .vendorPair .bbr2]

/-- Row 3x of the opcode matrix. -/
def opcodeRow3 : List Entry :=
  [.byte .bmi, .byte fun z => .and (.mem (.izy z)), .byte fun z => .and (.mem (.izp z)), .undef,
   .byte fun z => .bit (.zpx z), .byte fun z => .and (.mem (.zpx z)), .byte fun z => .rol (.mem (.zpx z)), .vendorByte .rmb3,
   .imp .sec, .word fun w => .and (.mem (.absy w)), .imp .decA, .undef,
   .word fun w => .bit (.absx w), .word fun w => .and (.mem (.absx w)), .word fun w => .rol (.mem (.absx w)), .vendorPair .bbr3]

/-- Row 4x of the opcode matrix. -/
def opcodeRow4 : List Entry :=
  [.imp .rti, .byte fun z => .eor (.mem (.izx z)), .undef, .undef,
   .undef, .byte fun z => .eor (.mem (.zp z)), .byte fun z => .lsr (.mem (.zp z)), .vendorByte .rmb4,
   .imp .pha, .byte fun v => .eor (.imm v), .imp (.lsr .acc), .undef,
   .word .jmp, .word fun w => .eor (.mem (.abs w)), .word fun w => .lsr (.mem (.abs w)), .vendorPair .bbr4]

/-- Row 5x of the opcode matrix. -/
def opcodeRow5 : List Entry :=
  [.byte .bvc, .byte fun z => .eor (.mem (.izy z)), .byte fun z => .eor (.mem (.izp z)), .undef,
   .undef, .byte fun z => .eor (.mem (.zpx z)), .byte fun z => .lsr (.mem (.zpx z)), .vendorByte .rmb5,
   .imp .cli, .word fun w => .eor (.mem (.absy w)), .imp .phy, .undef,
   .undef, .word fun w => .eor (.mem (.absx w)), .word fun w => .lsr (.mem (.absx w)), .vendorPair .bbr5]

/-- Row 6x of the opcode matrix. -/
def opcodeRow6 : List Entry :=
  [.imp .rts, .byte fun z => .adc (.mem (.izx z)), .undef, .undef,
   .byte fun z => .stz (.zp z), .byte fun z => .adc (.mem (.zp z)), .byte fun z => .ror (.mem (.zp z)), .vendorByte .rmb6,
   .imp .pla, .byte fun v => .adc (.imm v), .imp (.ror .acc), .undef,
   .word .jmpInd, .word fun w => .adc (.mem (.abs w)), .word fun w => .ror (.mem (.abs w)), .vendorPair .bbr6]

/-- Row 7x of the opcode matrix. -/
def opcodeRow7 : List Entry :=
  [.byte .bvs, .byte fun z => .adc (.mem (.izy z)), .byte fun z => .adc (.mem (.izp z)), .undef,
   .byte fun z => .stz (.zpx z), .byte fun z => .adc (.mem (.zpx z)), .byte fun z => .ror (.mem (.zpx z)), .vendorByte .rmb7,
   .imp .sei, .word fun w => .adc (.mem (.absy w)), .imp .ply, .undef,
   .word .jmpIax, .word fun w => .adc (.mem (.absx w)), .word fun w => .ror (.mem (.absx w)), .vendorPair .bbr7]

/-- Row 8x of the opcode matrix. -/
def opcodeRow8 : List Entry :=
  [.byte .bra, .byte fun z => .sta (.izx z), .undef, .undef,
   .byte fun z => .sty (.zp z), .byte fun z => .sta (.zp z), .byte fun z => .stx (.zp z), .vendorByte .smb0,
   .imp .dey, .byte .bitImm, .imp .txa, .undef,
   .word fun w => .sty (.abs w), .word fun w => .sta (.abs w), .word fun w => .stx (.abs w), .vendorPair .bbs0]

/-- Row 9x of the opcode matrix. -/
def opcodeRow9 : List Entry :=
  [.byte .bcc, .byte fun z => .sta (.izy z), .byte fun z => .sta (.izp z), .undef,
   .byte fun z => .sty (.zpx z), .byte fun z => .sta (.zpx z), .byte fun z => .stx (.zpy z), .vendorByte .smb1,
   .imp .tya, .word fun w => .sta (.absy w), .imp .txs, .undef,
   .word fun w => .stz (.abs w), .word fun w => .sta (.absx w), .word fun w => .stz (.absx w), .vendorPair .bbs1]

/-- Row Ax of the opcode matrix. -/
def opcodeRowA : List Entry :=
  [.byte fun v => .ldy (.imm v), .byte fun z => .lda (.mem (.izx z)), .byte fun v => .ldx (.imm v), .undef,
   .byte fun z => .ldy (.mem (.zp z)), .byte fun z => .lda (.mem (.zp z)), .byte fun z => .ldx (.mem (.zp z)), .vendorByte .smb2,
   .imp .tay, .byte fun v => .lda (.imm v), .imp .tax, .undef,
   .word fun w => .ldy (.mem (.abs w)), .word fun w => .lda (.mem (.abs w)), .word fun w => .ldx (.mem (.abs w)), .vendorPair .bbs2]

/-- Row Bx of the opcode matrix. -/
def opcodeRowB : List Entry :=
  [.byte .bcs, .byte fun z => .lda (.mem (.izy z)), .byte fun z => .lda (.mem (.izp z)), .undef,
   .byte fun z => .ldy (.mem (.zpx z)), .byte fun z => .lda (.mem (.zpx z)), .byte fun z => .ldx (.mem (.zpy z)), .vendorByte .smb3,
   .imp .clv, .word fun w => .lda (.mem (.absy w)), .imp .tsx, .undef,
   .word fun w => .ldy (.mem (.absx w)), .word fun w => .lda (.mem (.absx w)), .word fun w => .ldx (.mem (.absy w)), .vendorPair .bbs3]

/-- Row Cx of the opcode matrix. -/
def opcodeRowC : List Entry :=
  [.byte fun v => .cpy (.imm v), .byte fun z => .cmp (.mem (.izx z)), .undef, .undef,
   .byte fun z => .cpy (.mem (.zp z)), .byte fun z => .cmp (.mem (.zp z)), .byte fun z => .dec (.zp z), .vendorByte .smb4,
   .imp .iny, .byte fun v => .cmp (.imm v), .imp .dex, .pauseImp .wai,
   .word fun w => .cpy (.mem (.abs w)), .word fun w => .cmp (.mem (.abs w)), .word fun w => .dec (.abs w), .vendorPair .bbs4]

/-- Row Dx of the opcode matrix. -/
def opcodeRowD : List Entry :=
  [.byte .bne, .byte fun z => .cmp (.mem (.izy z)), .byte fun z => .cmp (.mem (.izp z)), .undef,
   .undef, .byte fun z => .cmp (.mem (.zpx z)), .byte fun z => .dec (.zpx z), .vendorByte .smb5,
   .imp .cld, .word fun w => .cmp (.mem (.absy w)), .imp .phx, .pauseImp .stp,
   .undef, .word fun w => .cmp (.mem (.absx w)), .word fun w => .dec (.absx w), .vendorPair .bbs5]

/-- Row Ex of the opcode matrix. -/
def opcodeRowE : List Entry :=
  [.byte fun v => .cpx (.imm v), .byte fun z => .sbc (.mem (.izx z)), .undef, .undef,
   .byte fun z => .cpx (.mem (.zp z)), .byte fun z => .sbc (.mem (.zp z)), .byte fun z => .inc (.zp z), .vendorByte .smb6,
   .imp .inx, .byte fun v => .sbc (.imm v), .imp .nop, .undef,
   .word fun w => .cpx (.mem (.abs w)), .word fun w => .sbc (.mem (.abs w)), .word fun w => .inc (.abs w), .vendorPair .bbs6]

/-- Row Fx of the opcode matrix. -/
def opcodeRowF : List Entry :=
  [.byte .beq, .byte fun z => .sbc (.mem (.izy z)), .byte fun z => .sbc (.mem (.izp z)), .undef,
   .undef, .byte fun z => .sbc (.mem (.zpx z)), .byte fun z => .inc (.zpx z), .vendorByte .smb7,
   .imp .sed, .word fun w => .sbc (.mem (.absy w)), .imp .plx, .undef,
   .undef, .word fun w => .sbc (.mem (.absx w)), .word fun w => .inc (.absx w), .vendorPair .bbs7]

/-- The opcode matrix of R107, one list a row. -/
def opcodeMatrix : List (List Entry) :=
  [opcodeRow0, opcodeRow1, opcodeRow2, opcodeRow3, opcodeRow4, opcodeRow5, opcodeRow6, opcodeRow7,
   opcodeRow8, opcodeRow9, opcodeRowA, opcodeRowB, opcodeRowC, opcodeRowD, opcodeRowE, opcodeRowF]

/-- The cell of an opcode byte: row `op[7:4]`, column `op[3:0]`. -/
def opcodeEntry (op : Byte) : Entry :=
  (opcodeMatrix.getD (op.toNat / 16) []).getD (op.toNat % 16) .undef

/-- The instruction of a cell under the toggles: a closed gate falls through to the unimplemented path (R103). -/
def Entry.build (ext : Extensions) (op b1 b2 : Byte) : Entry → Instr
  | .undef => .unimpl op
  | .imp i => i
  | .byte f => f b1
  | .word f => f (wordOf b2 b1)
  | .vendorByte f => if ext.vendor then f b1 else .unimpl op
  | .vendorPair f => if ext.vendor then f b1 b2 else .unimpl op
  | .pauseImp i => if ext.pause then i else .unimpl op

/-- The instruction of an opcode byte and the two bytes after it (R82); a byte the format does not have is ignored. -/
def decodeOpcode (ext : Extensions) (op b1 b2 : Byte) : Instr :=
  (opcodeEntry op).build ext op b1 b2

/-- Bytes of a mode, opcode included (R81). An opcode on the unimplemented path is one byte to the decoder: no operand
byte is read (R324). -/
def Mode.length : Mode → Nat
  | .imp | .acc | .none => 1
  | .imm | .zp | .zpx | .zpy | .izx | .izy | .izp | .rel | .brk => 2
  | .abs | .absx | .absy | .ind | .iax | .zpr => 3

/-- Bytes of an instruction (R108). -/
def Instr.length (i : Instr) : Nat := i.mode.length

/-- Why a list of bytes holds no instruction. Every opcode byte decodes; only a list that is too short does not. -/
inductive DecodeError where
  /-- the list is empty -/
  | noOpcode
  /-- the list ends before the operand bytes of this opcode -/
  | missingOperand (op : Byte)
  deriving DecidableEq, Repr

/-- What decoding a list of bytes gives: an instruction and the rest of the list, or a rejection by name. -/
inductive Decoded where
  | ok (i : Instr) (rest : List Byte)
  | error (e : DecodeError)
  deriving DecidableEq, Repr

/-- Decode one instruction from a list of bytes, giving the rest of the list. -/
def decode (ext : Extensions) : List Byte → Decoded
  | [] => .error .noOpcode
  | op :: rest =>
    let i := decodeOpcode ext op (rest.getD 0 0) (rest.getD 1 0)
    if rest.length + 1 < i.length then .error (.missingOperand op) else .ok i (rest.drop (i.length - 1))

/-- The opcode of each form, as the "Encoding:" line of the instruction's rule lists it (R131 to R323). -/
def Instr.encodings : Instr → List (Mode × Byte)
  | .lda _ => [(.imm, 0xA9), (.zp, 0xA5), (.zpx, 0xB5), (.abs, 0xAD), (.absx, 0xBD), (.absy, 0xB9), (.izx, 0xA1), (.izy, 0xB1), (.izp, 0xB2)]
  | .ldx _ => [(.imm, 0xA2), (.zp, 0xA6), (.zpy, 0xB6), (.abs, 0xAE), (.absy, 0xBE)]
  | .ldy _ => [(.imm, 0xA0), (.zp, 0xA4), (.zpx, 0xB4), (.abs, 0xAC), (.absx, 0xBC)]
  | .sta _ => [(.zp, 0x85), (.zpx, 0x95), (.abs, 0x8D), (.absx, 0x9D), (.absy, 0x99), (.izx, 0x81), (.izy, 0x91), (.izp, 0x92)]
  | .stx _ => [(.zp, 0x86), (.zpy, 0x96), (.abs, 0x8E)]
  | .sty _ => [(.zp, 0x84), (.zpx, 0x94), (.abs, 0x8C)]
  | .stz _ => [(.zp, 0x64), (.zpx, 0x74), (.abs, 0x9C), (.absx, 0x9E)]
  | .tax => [(.imp, 0xAA)]
  | .tay => [(.imp, 0xA8)]
  | .txa => [(.imp, 0x8A)]
  | .tya => [(.imp, 0x98)]
  | .tsx => [(.imp, 0xBA)]
  | .txs => [(.imp, 0x9A)]
  | .adc _ => [(.imm, 0x69), (.zp, 0x65), (.zpx, 0x75), (.abs, 0x6D), (.absx, 0x7D), (.absy, 0x79), (.izx, 0x61), (.izy, 0x71), (.izp, 0x72)]
  | .sbc _ => [(.imm, 0xE9), (.zp, 0xE5), (.zpx, 0xF5), (.abs, 0xED), (.absx, 0xFD), (.absy, 0xF9), (.izx, 0xE1), (.izy, 0xF1), (.izp, 0xF2)]
  | .and _ => [(.imm, 0x29), (.zp, 0x25), (.zpx, 0x35), (.abs, 0x2D), (.absx, 0x3D), (.absy, 0x39), (.izx, 0x21), (.izy, 0x31), (.izp, 0x32)]
  | .ora _ => [(.imm, 0x09), (.zp, 0x05), (.zpx, 0x15), (.abs, 0x0D), (.absx, 0x1D), (.absy, 0x19), (.izx, 0x01), (.izy, 0x11), (.izp, 0x12)]
  | .eor _ => [(.imm, 0x49), (.zp, 0x45), (.zpx, 0x55), (.abs, 0x4D), (.absx, 0x5D), (.absy, 0x59), (.izx, 0x41), (.izy, 0x51), (.izp, 0x52)]
  | .cmp _ => [(.imm, 0xC9), (.zp, 0xC5), (.zpx, 0xD5), (.abs, 0xCD), (.absx, 0xDD), (.absy, 0xD9), (.izx, 0xC1), (.izy, 0xD1), (.izp, 0xD2)]
  | .cpx _ => [(.imm, 0xE0), (.zp, 0xE4), (.abs, 0xEC)]
  | .cpy _ => [(.imm, 0xC0), (.zp, 0xC4), (.abs, 0xCC)]
  | .bit _ => [(.zp, 0x24), (.zpx, 0x34), (.abs, 0x2C), (.absx, 0x3C)]
  | .bitImm _ => [(.imm, 0x89)]
  | .inc _ => [(.zp, 0xE6), (.zpx, 0xF6), (.abs, 0xEE), (.absx, 0xFE)]
  | .incA => [(.acc, 0x1A)]
  | .inx => [(.imp, 0xE8)]
  | .iny => [(.imp, 0xC8)]
  | .dec _ => [(.zp, 0xC6), (.zpx, 0xD6), (.abs, 0xCE), (.absx, 0xDE)]
  | .decA => [(.acc, 0x3A)]
  | .dex => [(.imp, 0xCA)]
  | .dey => [(.imp, 0x88)]
  | .tsb _ => [(.zp, 0x04), (.abs, 0x0C)]
  | .trb _ => [(.zp, 0x14), (.abs, 0x1C)]
  | .asl _ => [(.acc, 0x0A), (.zp, 0x06), (.zpx, 0x16), (.abs, 0x0E), (.absx, 0x1E)]
  | .lsr _ => [(.acc, 0x4A), (.zp, 0x46), (.zpx, 0x56), (.abs, 0x4E), (.absx, 0x5E)]
  | .rol _ => [(.acc, 0x2A), (.zp, 0x26), (.zpx, 0x36), (.abs, 0x2E), (.absx, 0x3E)]
  | .ror _ => [(.acc, 0x6A), (.zp, 0x66), (.zpx, 0x76), (.abs, 0x6E), (.absx, 0x7E)]
  | .clc => [(.imp, 0x18)]
  | .sec => [(.imp, 0x38)]
  | .cli => [(.imp, 0x58)]
  | .sei => [(.imp, 0x78)]
  | .cld => [(.imp, 0xD8)]
  | .sed => [(.imp, 0xF8)]
  | .clv => [(.imp, 0xB8)]
  | .pha => [(.imp, 0x48)]
  | .php => [(.imp, 0x08)]
  | .phx => [(.imp, 0xDA)]
  | .phy => [(.imp, 0x5A)]
  | .pla => [(.imp, 0x68)]
  | .plp => [(.imp, 0x28)]
  | .plx => [(.imp, 0xFA)]
  | .ply => [(.imp, 0x7A)]
  | .bpl _ => [(.rel, 0x10)]
  | .bmi _ => [(.rel, 0x30)]
  | .bvc _ => [(.rel, 0x50)]
  | .bvs _ => [(.rel, 0x70)]
  | .bcc _ => [(.rel, 0x90)]
  | .bcs _ => [(.rel, 0xB0)]
  | .bne _ => [(.rel, 0xD0)]
  | .beq _ => [(.rel, 0xF0)]
  | .bra _ => [(.rel, 0x80)]
  | .jmp _ => [(.abs, 0x4C)]
  | .jmpInd _ => [(.ind, 0x6C)]
  | .jmpIax _ => [(.iax, 0x7C)]
  | .jsr _ => [(.abs, 0x20)]
  | .rts => [(.imp, 0x60)]
  | .rti => [(.imp, 0x40)]
  | .brk _ => [(.brk, 0x00)]
  | .nop => [(.imp, 0xEA)]
  | .rmb0 _ => [(.zp, 0x07)]
  | .rmb1 _ => [(.zp, 0x17)]
  | .rmb2 _ => [(.zp, 0x27)]
  | .rmb3 _ => [(.zp, 0x37)]
  | .rmb4 _ => [(.zp, 0x47)]
  | .rmb5 _ => [(.zp, 0x57)]
  | .rmb6 _ => [(.zp, 0x67)]
  | .rmb7 _ => [(.zp, 0x77)]
  | .smb0 _ => [(.zp, 0x87)]
  | .smb1 _ => [(.zp, 0x97)]
  | .smb2 _ => [(.zp, 0xA7)]
  | .smb3 _ => [(.zp, 0xB7)]
  | .smb4 _ => [(.zp, 0xC7)]
  | .smb5 _ => [(.zp, 0xD7)]
  | .smb6 _ => [(.zp, 0xE7)]
  | .smb7 _ => [(.zp, 0xF7)]
  | .bbr0 _ _ => [(.zpr, 0x0F)]
  | .bbr1 _ _ => [(.zpr, 0x1F)]
  | .bbr2 _ _ => [(.zpr, 0x2F)]
  | .bbr3 _ _ => [(.zpr, 0x3F)]
  | .bbr4 _ _ => [(.zpr, 0x4F)]
  | .bbr5 _ _ => [(.zpr, 0x5F)]
  | .bbr6 _ _ => [(.zpr, 0x6F)]
  | .bbr7 _ _ => [(.zpr, 0x7F)]
  | .bbs0 _ _ => [(.zpr, 0x8F)]
  | .bbs1 _ _ => [(.zpr, 0x9F)]
  | .bbs2 _ _ => [(.zpr, 0xAF)]
  | .bbs3 _ _ => [(.zpr, 0xBF)]
  | .bbs4 _ _ => [(.zpr, 0xCF)]
  | .bbs5 _ _ => [(.zpr, 0xDF)]
  | .bbs6 _ _ => [(.zpr, 0xEF)]
  | .bbs7 _ _ => [(.zpr, 0xFF)]
  | .wai => [(.imp, 0xCB)]
  | .stp => [(.imp, 0xDB)]
  | .unimpl op => [(.none, op)]

/-- The opcode listed for a mode. -/
def opcodeOf (m : Mode) : List (Mode × Byte) → Option Byte
  | [] => none
  | (k, op) :: rest => if m = k then some op else opcodeOf m rest

/-- The opcode byte of an instruction; none for an operand form its rule does not list. -/
def Instr.opcode (i : Instr) : Option Byte := opcodeOf i.mode i.encodings

/-- The operand bytes of a memory operand, a 16-bit address low byte first (R83). -/
def Addr.bytes : Addr → List Byte
  | .zp z | .zpx z | .zpy z | .izx z | .izy z | .izp z => [z]
  | .abs w | .absx w | .absy w => [loByte w, hiByte w]

/-- The operand bytes of a read-type operand. -/
def Operand.bytes : Operand → List Byte
  | .imm v => [v]
  | .mem m => m.bytes

/-- The operand bytes of a shift or rotate operand. -/
def Target.bytes : Target → List Byte
  | .acc => []
  | .mem m => m.bytes

/-- The operand bytes of an instruction (R81). -/
def Instr.operandBytes : Instr → List Byte
  | .lda o | .ldx o | .ldy o | .adc o | .sbc o | .and o | .ora o | .eor o | .cmp o | .cpx o | .cpy o => o.bytes
  | .sta m | .stx m | .sty m | .stz m | .bit m | .inc m | .dec m | .tsb m | .trb m => m.bytes
  | .asl t | .lsr t | .rol t | .ror t => t.bytes
  | .bitImm v => [v]
  | .bpl r | .bmi r | .bvc r | .bvs r | .bcc r | .bcs r | .bne r | .beq r | .bra r => [r]
  | .jmp w | .jmpInd w | .jmpIax w | .jsr w => [loByte w, hiByte w]
  | .brk sig => [sig]
  | .rmb0 z | .rmb1 z | .rmb2 z | .rmb3 z | .rmb4 z | .rmb5 z | .rmb6 z | .rmb7 z => [z]
  | .smb0 z | .smb1 z | .smb2 z | .smb3 z | .smb4 z | .smb5 z | .smb6 z | .smb7 z => [z]
  | .bbr0 z r | .bbr1 z r | .bbr2 z r | .bbr3 z r | .bbr4 z r | .bbr5 z r | .bbr6 z r | .bbr7 z r => [z, r]
  | .bbs0 z r | .bbs1 z r | .bbs2 z r | .bbs3 z r | .bbs4 z r | .bbs5 z r | .bbs6 z r | .bbs7 z r => [z, r]
  | .incA | .decA | .tax | .tay | .txa | .tya | .tsx | .txs | .inx | .iny | .dex | .dey => []
  | .clc | .sec | .cli | .sei | .cld | .sed | .clv => []
  | .pha | .php | .phx | .phy | .pla | .plp | .plx | .ply => []
  | .rts | .rti | .nop | .wai | .stp | .unimpl _ => []

/-- The bytes of an instruction; the empty list for an operand form that does not exist. -/
def encode (i : Instr) : List Byte :=
  match i.opcode with
  | some op => op :: i.operandBytes
  | none => []

/-- The first three bytes of an instruction whose bits below `nbits` are those of `w`, the others zero. -/
def tableBytes (nbits w : Nat) : List Byte :=
  let v := w % 2 ^ nbits
  [BitVec.ofNat 8 v, BitVec.ofNat 8 (v / 256), BitVec.ofNat 8 (v / 65536)]

/-- The instruction the decoder reads from an instruction word numbered as spec/opcode_table.json numbers its bits,
with both extensions on (so that every row's own instruction is read). -/
def decodeTableWord (nbits w : Nat) : Option Instr :=
  match decode ⟨true, true⟩ (tableBytes nbits w) with
  | .ok i _ => some i
  | .error _ => none

end Sys2Proof
end

