-- ==== Sys2Proof/Machine/Adder.lean ====
section
/-! DEFINITION. The adder primitives (spec/41_alu.md R160 to R164), each computed in the integers and narrowed at the end. -/

namespace Sys2Proof.Machine

/-- The three outputs of an adder primitive: result, carry out, overflow. -/
structure Sum where
  r : Byte
  carry : Bool
  overflow : Bool
  deriving DecidableEq, Repr

/-- `v[7:4]`. -/
def hiNibble (v : Byte) : Nat := v.toNat / 16

/-- `v[3:0]`. -/
def loNibble (v : Byte) : Nat := v.toNat % 16

/-- The overflow of an add: the result's sign differs from both operands' (R160, R163). -/
def addOverflow (a m r : Byte) : Bool := ((a ^^^ r) &&& (m ^^^ r)).msb

/-- The overflow of a subtract: the operands' signs differ and the result's differs from a's (R161, R164). -/
def subOverflow (a m r : Byte) : Bool := ((a ^^^ m) &&& (a ^^^ r)).msb

/-- `AddBin` (R160). -/
def addBin (a m : Byte) (c : Bool) : Sum :=
  let s := a.toNat + m.toNat + c.toNat
  let r : Byte := BitVec.ofNat 8 s
  { r, carry := decide (256 ≤ s), overflow := addOverflow a m r }

/-- `SubBin` (R161). -/
def subBin (a m : Byte) (c : Bool) : Sum :=
  let d : Int := (a.toNat : Int) - m.toNat - (1 - (c.toNat : Int))
  let r : Byte := BitVec.ofInt 8 d
  { r, carry := decide (0 ≤ d), overflow := subOverflow a m r }

/-- `BcdValid` (R162). -/
def bcdValid (v : Byte) : Bool := decide (loNibble v ≤ 9) && decide (hiNibble v ≤ 9)

/-- `AddDec` (R163), meant for valid BCD operands. -/
def addDec (a m : Byte) (c : Bool) : Sum :=
  let lo := loNibble a + loNibble m + c.toNat
  let hc := decide (9 < lo)
  let hi := hiNibble a + hiNibble m + hc.toNat
  let co := decide (9 < hi)
  let r : Byte := BitVec.ofNat 8 ((if co then hi - 10 else hi) * 16 + (if hc then lo - 10 else lo))
  { r, carry := co, overflow := addOverflow a m r }

/-- `SubDec` (R164), meant for valid BCD operands. -/
def subDec (a m : Byte) (c : Bool) : Sum :=
  let lo : Int := (loNibble a : Int) - loNibble m - (1 - (c.toNat : Int))
  let hb := decide (lo < 0)
  let hi : Int := (hiNibble a : Int) - hiNibble m - (hb.toNat : Int)
  let borrow := decide (hi < 0)
  let r : Byte := BitVec.ofInt 8 ((if borrow then hi + 10 else hi) * 16 + (if hb then lo + 10 else lo))
  { r, carry := !borrow, overflow := subOverflow a m r }

end Sys2Proof.Machine
end

