-- ==== Sys2Proof/Machine/Flags.lean ====
section
/-! DEFINITION. The status register P (spec/10_state.md R25 to R34) and every flag computation on it. -/

namespace Sys2Proof.Machine

/-- The fields of P (R25). -/
inductive Flag where
  | c | z | i | d | b | u | v | n
  deriving DecidableEq, Repr

/-- The bit of P a flag stands at (R25, D1). -/
def flagBit : Flag → Nat
  | .c => 0
  | .z => 1
  | .i => 2
  | .d => 3
  | .b => 4
  | .u => 5
  | .v => 6
  | .n => 7

/-- A flag of P. -/
def getFlag (f : Flag) (p : Byte) : Bool := p.getLsbD (flagBit f)

/-- P with one flag written, the others unchanged. -/
def setFlag (f : Flag) (on : Bool) (p : Byte) : Byte :=
  if on then p ||| (1#8 <<< flagBit f) else p &&& ~~~(1#8 <<< flagBit f)

/-- `NZ(v)` of R34: Z and N from a byte. -/
def setNZ (v : Byte) (p : Byte) : Byte := setFlag .n v.msb (setFlag .z (v == 0) p)

/-- C beside N and Z of a result: shifts and rotates (R200). -/
def setCNZ (carry : Bool) (v : Byte) (p : Byte) : Byte := setNZ v (setFlag .c carry p)

/-- C, V, N and Z of an add or subtract (R166, R167). -/
def setCVNZ (carry overflow : Bool) (v : Byte) (p : Byte) : Byte := setNZ v (setFlag .v overflow (setFlag .c carry p))

/-- `Compare(r, m)` of R171 on P. -/
def setCompare (r m : Byte) (p : Byte) : Byte :=
  setFlag .n (r - m).msb (setFlag .z (r == m) (setFlag .c (decide (m.toNat ≤ r.toNat)) p))

/-- Z of a bit test, from `A AND M` (R175, R176, R185, R186). -/
def setTestZ (acc m : Byte) (p : Byte) : Byte := setFlag .z (acc &&& m == 0) p

/-- Z, N and V of BIT's memory modes (R175). -/
def setBit (acc m : Byte) (p : Byte) : Byte :=
  setFlag .v (m.getLsbD 6) (setFlag .n (m.getLsbD 7) (setTestZ acc m p))

/-- B and U forced to 1: the byte PHP and BRK push, and what PLP and RTI load (D10). -/
def withBU (p : Byte) : Byte := p ||| 0x30

/-- The status byte IRQ service pushes: P with B cleared (R354). -/
def irqPushedP (p : Byte) : Byte := p &&& 0xEF

/-- The status byte NMI service pushes: bit 4 is P_NMI_PUSH_B (R353). -/
def nmiPushedP (pushB : Bool) (p : Byte) : Byte := (p &&& 0xEF) ||| (if pushB then 0x10 else 0x00)

/-- I set and D cleared: what BRK, IRQ service and, under their parameter, NMI and reset service do to P. -/
def maskInterrupts (p : Byte) : Byte := setFlag .d false (setFlag .i true p)

end Sys2Proof.Machine
end

