-- ==== Sys2Proof/Config.lean ====
section
/-! DEFINITION. What the spec leaves OPEN, as constants without a body: no proof can see their values, so a
claim about them holds for every value. Each is marked in the assumption log (5, 6, 7, 14). -/

namespace Sys2Proof.Config

/-- P_ZP_PTR_WRAP (R84, D4), OPEN: the value `State.reset` takes for its field `cfg.zpPtrWrap`. Log 5. -/
opaque zpPtrWrap : Bool

/-- P_NMI_MASKS (R353, D12), OPEN: the value `State.reset` takes for its field `cfg.nmiMasks`. Log 5. -/
opaque nmiMasks : Bool

/-- P_NMI_PUSH_B (R353, D11), OPEN: the value `State.reset` takes for its field `cfg.nmiPushB`. Log 5. -/
opaque nmiPushB : Bool

/-- P_UNIMPL_LEN (R324, D7), OPEN, 1 to 4 for each opcode: the byte count is this number plus one. Log 6. -/
opaque unimplLen : Byte → Fin 4

/-- The n-th free byte: the A that ADC or SBC draws on an invalid BCD operand (R165, D17). Log 7. -/
opaque freeByte : Nat → Byte

/-- The n-th free bit: a C, Z, N or V that ADC or SBC draws on an invalid BCD operand (R165, D17). Log 7. -/
opaque freeBit : Nat → Bool

/-- The cycles a Nop-policy unimplemented opcode charges; the source gives none (R409). Non-normative, log 14. -/
opaque unimplCycles : Byte → Nat

/-- The BBR/BBS surcharge for taken and page-crossing; the spec does not settle it (R411). Non-normative, log 14. -/
opaque bitBranchSurcharge : Bool → Bool → Nat

end Sys2Proof.Config
end

