-- ==== Sys2Proof/Machine/State.lean ====
section
/-! DEFINITION. The state of the machine (spec/10_state.md R20 to R43), its memory as plain data, the reasons a step can
stop, and the state after reset. -/

namespace Sys2Proof.Machine

/-- Engine states of R37: the three of the source and the two the spec adds. -/
inductive Engine where
  | off
  | waitingForReset
  | running
  /-- after a pause opcode (R321) -/
  | paused
  /-- after an unimplemented opcode under Fail, with the fault record of R341 -/
  | faulted (addr : Word) (opcode : Byte)
  deriving DecidableEq, Repr

/-- P_UNIMPL_POLICY (R324): what an opcode on the unimplemented path does. -/
inductive UnimplPolicy where
  | fail
  | nop
  deriving DecidableEq, Repr

/-- The configuration of R38 and R43, the parameters of R6 that are plain data. The first three and the clock period
are set by host calls (R361); the last four are OPEN (D4, D11, D12, D13) and no step changes them. -/
structure Settings where
  vendorExt : Bool
  pauseExt : Bool
  unimplPolicy : UnimplPolicy
  clockPeriod : Nat
  zpPtrWrap : Bool
  nmiMasks : Bool
  nmiPushB : Bool
  resetMasks : Bool
  deriving DecidableEq, Repr

/-- The decode toggles of a configuration. -/
def Settings.ext (c : Settings) : Extensions := ⟨c.vendorExt, c.pauseExt⟩

/-- The operations of the host interface (R361). -/
inductive HostOp where
  | turnOn | turnOff
  | resetLow | resetHigh | nmiLow | nmiHigh | irqLow | irqHigh
  | failOnUnimplemented | nopOnUnimplemented
  | vendorExtensions (b : Bool) | pauseExtensions (b : Bool)
  | changePeriod (d : Nat)
  | memRead (a : Word) | memWrite (a : Word) (v : Byte)
  deriving DecidableEq, Repr

/-- What a host operation answers the host. -/
inductive HostReply where
  /-- no operation has been answered yet -/
  | none
  | done
  /-- lifecycle misuse (R343) -/
  | misuse
  /-- a configuration or memory access in an engine state that does not allow it (R361, U19, U20) -/
  | refused
  /-- the byte of a host memory read -/
  | byte (v : Byte)
  deriving DecidableEq, Repr

/-- One turn of the schedule: the core's next iteration, or one atomic host step (R66, D22). -/
inductive Turn where
  | core
  | host (op : HostOp)
  deriving DecidableEq, Repr

/-- Memory as plain data: (address, byte) pairs, addresses strictly rising, no byte equal to `Memory.unlisted`. -/
abbrev Memory := List Host.Cell

/-- What an address that is not listed reads as: the spec's `Mem0` is a parameter (R51), the model's is zero. Log 2. -/
def Memory.unlisted : Byte := 0

/-- The machine (R43), with three fields of the model's own: `draws`, `schedule`, `reply` (logs 7, 8, 9). -/
structure State where
  a : Byte
  x : Byte
  y : Byte
  /-- the stack pointer S (R23) -/
  sp : Byte
  /-- the status register P (R25) -/
  p : Byte
  pc : Word
  resetPending : Bool
  nmiPending : Bool
  irqAsserted : Bool
  nmiLineHigh : Bool
  resetLineHigh : Bool
  engine : Engine
  cfg : Settings
  mem : Memory
  /-- how many free values have been drawn (R165) -/
  draws : Nat
  /-- the turns still to come, the next one first; the core's turn when the list is empty -/
  schedule : List Turn
  /-- what the last host operation answered -/
  reply : HostReply
  deriving DecidableEq, Repr

/-- The fatal conditions (R340): one. -/
inductive Fault where
  /-- `UnimplementedInstruction(addr, opcode)` (R341), raised by the unimplemented path under Fail (R324). It is no outcome
  of a step: the engine state Faulted holds it, `State.faultRecord` reads it, and the core then has no step until
  `turn_off` (R342, R347, log 12). Safe: the machine is as the fault left it. -/
  | unimplementedInstruction (addr : Word) (opcode : Byte)
  deriving DecidableEq, Repr

/-- Why an instruction is refused. -/
inductive Refusal where
  /-- Raised by an arm of `exec` whose instruction has no meaning in the model; no arm does. Safe: the model stops. -/
  | notModelled (mnemonic : String)
  deriving DecidableEq, Repr

/-- The configuration at reset: the spec gives no initial value for what the host sets (logs 4, 15); the OPEN parameters
are constants without a body (log 5), but for P_RESET_MASKS, which is false as in the case R401 states (log 3). -/
def Settings.reset : Settings where
  vendorExt := true
  pauseExt := true
  unimplPolicy := .fail
  clockPeriod := 0
  zpPtrWrap := Config.zpPtrWrap
  nmiMasks := Config.nmiMasks
  nmiPushB := Config.nmiPushB
  resetMasks := false

/-- The state after construction (R41, R400): the engine is Off, U alone is set in P, and every other piece is zero or
false. -/
def State.powerOn : State where
  a := 0
  x := 0
  y := 0
  sp := 0
  p := 0x20
  pc := 0
  resetPending := false
  nmiPending := false
  irqAsserted := false
  nmiLineHigh := false
  resetLineHigh := false
  engine := .off
  cfg := .reset
  mem := []
  draws := 0
  schedule := []
  reply := .none

/-- The machine right after the first reset (R401): `turn_on` has set B and U, the reset pulse has left the reset line
high, and reset service has cleared its latch and loaded pc from the vector (0x0000 in a memory that lists nothing).
Log 3. -/
def State.reset : State where
  a := 0
  x := 0
  y := 0
  sp := 0
  p := 0x30
  pc := 0
  resetPending := false
  nmiPending := false
  irqAsserted := false
  nmiLineHigh := false
  resetLineHigh := true
  engine := .running
  cfg := .reset
  mem := []
  draws := 0
  schedule := []
  reply := .none

end Sys2Proof.Machine
end

