-- ==== Sys2Proof/Machine/Ops.lean ====
section
/-! DEFINITION. The named operations over memory and registers, the stack primitives (spec/44_stack.md R240, R241), and
taking and leaving an interrupt as one shared operation each (spec/60_exceptions.md R351 to R357). -/

namespace Sys2Proof.Machine

/-- `zext_16` (R7). -/
def zext16 (v : Byte) : Word := BitVec.ofNat 16 v.toNat

/-- `sext_16` (R7): 0xFF00 is added when bit 7 is set. -/
def sext16 (v : Byte) : Word := if v.msb then BitVec.ofNat 16 (v.toNat + 0xFF00) else BitVec.ofNat 16 v.toNat

/-- The byte at an address: the first entry listed for it. -/
def readCell : Memory → Nat → Byte
  | [], _ => Memory.unlisted
  | (k, w) :: rest, a => if a = k then w else readCell rest a

/-- A cell put in its place among rising addresses. -/
def insertCell (a : Nat) (v : Byte) : Memory → Memory
  | [] => [(a, v)]
  | (k, w) :: rest => if a < k then (a, v) :: (k, w) :: rest else (k, w) :: insertCell a v rest

/-- Every entry of an address taken out. -/
def eraseCell (a : Nat) : Memory → Memory
  | [] => []
  | (k, w) :: rest => if a = k then eraseCell a rest else (k, w) :: eraseCell a rest

/-- The byte at an address written, in canonical form: the value an unlisted address reads as is not listed. -/
def writeCell (m : Memory) (a : Nat) (v : Byte) : Memory :=
  if v = Memory.unlisted then eraseCell a m else insertCell a v (eraseCell a m)

/-- Addresses rise strictly from a lower bound, lie in the 64 KiB space, and no listed byte is the unlisted value. -/
def Memory.wfFrom (low : Nat) : Memory → Bool
  | [] => true
  | (k, v) :: rest => decide (low ≤ k) && decide (k < 65536) && !(v == Memory.unlisted) && wfFrom (k + 1) rest

/-- The canonical form of a memory. -/
def Memory.wf (m : Memory) : Bool := m.wfFrom 0

/-- `MemRead(a, 1)` (R52). -/
def State.read (s : State) (a : Word) : Byte := readCell s.mem a.toNat

/-- `MemWrite(a, 1, v)` (R52). -/
def State.write (s : State) (a : Word) (v : Byte) : State := { s with mem := writeCell s.mem a.toNat v }

/-- `MemRead(a, 2)` (R53): little-endian, the second address modulo 2^16. -/
def State.readWord (s : State) (a : Word) : Word := wordOf (s.read (a + 1)) (s.read a)

/-- `A <- v` -/
def State.setA (s : State) (v : Byte) : State := { s with a := v }
/-- `X <- v` -/
def State.setX (s : State) (v : Byte) : State := { s with x := v }
/-- `Y <- v` -/
def State.setY (s : State) (v : Byte) : State := { s with y := v }
/-- `S <- v` -/
def State.setSp (s : State) (v : Byte) : State := { s with sp := v }
/-- `P <- v` -/
def State.setP (s : State) (v : Byte) : State := { s with p := v }
/-- `pc <- v`, the source's `jmp(address)` (R24) -/
def State.setPc (s : State) (v : Word) : State := { s with pc := v }
/-- The engine state written (R347). -/
def State.setEngine (s : State) (e : Engine) : State := { s with engine := e }
/-- Free values counted as drawn (R165). -/
def State.addDraws (s : State) (k : Nat) : State := { s with draws := s.draws + k }

/-- One flag of P. -/
def State.flag (s : State) (f : Flag) : Bool := getFlag f s.p

/-- `NZ(v)` (R34). -/
def State.nz (s : State) (v : Byte) : State := s.setP (setNZ v s.p)

/-- The stack byte S points at: `0x0100 OR S` (R23). -/
def stackAddr (sp : Byte) : Word := 0x0100 ||| zext16 sp

/-- `Push(v)` (R240): write, then decrement. -/
def State.push (s : State) (v : Byte) : State := (s.write (stackAddr s.sp) v).setSp (s.sp - 1)

/-- A 16-bit value pushed, high byte first (R240). -/
def State.pushWord (s : State) (w : Word) : State := (s.push (hiByte w)).push (loByte w)

/-- `Pull()` (R241): increment, then read. -/
def State.pull (s : State) : Byte × State :=
  let t := s.setSp (s.sp + 1)
  (t.read (stackAddr t.sp), t)

/-- A 16-bit value pulled, low byte first (R241). -/
def State.pullWord (s : State) : Word × State :=
  let (lo, s1) := s.pull
  let (hi, s2) := s1.pull
  (wordOf hi lo, s2)

/-- TAKING AN INTERRUPT, for BRK (R276), NMI (R353) and IRQ (R354): pc is pushed high byte first, then the given status
byte; I is set and D cleared where the entry masks; pc is loaded from the vector, read after the pushes (R60). -/
def State.enterInterrupt (s : State) (pushedP : Byte) (masks : Bool) (vector : Word) : State :=
  let t := (s.pushWord s.pc).push pushedP
  let u := if masks then t.setP (maskInterrupts t.p) else t
  u.setPc (u.readWord vector)

/-- RETURNING (R275): P is pulled with B and U forced to 1, then pc low and high, with no increment. -/
def State.returnFromInterrupt (s : State) : State :=
  let (v, s1) := s.pull
  let (w, s2) := (s1.setP (withBU v)).pullWord
  s2.setPc w

end Sys2Proof.Machine
end

