-- ==== Sys2Proof/Machine/Operands.lean ====
section
/-! DEFINITION. The operand resolver (spec/30_encoding.md R84 to R101) and the operand read (spec/40 R130). A meaning
runs with pc at the byte after the instruction (R24), so a relative target is an offset from pc. -/

namespace Sys2Proof.Machine

/-- The address of the high byte of a zero-page pointer (R84), under P_ZP_PTR_WRAP. -/
def zpPtrHigh (wrap : Bool) (z : Byte) : Word :=
  if z = 0xFF then (if wrap then 0x0000 else 0x0100) else zext16 z + 1

/-- `ZpPtr(z)` (R84). -/
def State.zpPtr (s : State) (z : Byte) : Word :=
  wordOf (s.read (zpPtrHigh s.cfg.zpPtrWrap z)) (s.read (zext16 z))

/-- `EA(mode)` (R89 to R97). -/
def State.ea (s : State) : Addr → Word
  | .zp z => zext16 z
  | .zpx z => zext16 (z + s.x)
  | .zpy z => zext16 (z + s.y)
  | .abs w => w
  | .absx w => w + zext16 s.x
  | .absy w => w + zext16 s.y
  | .izx z => s.zpPtr (z + s.x)
  | .izy z => s.zpPtr z + zext16 s.y
  | .izp z => s.zpPtr z

/-- `Operand(mode)` (R130). -/
def State.operand (s : State) : Operand → Byte
  | .imm v => v
  | .mem m => s.read (s.ea m)

/-- The target of JMP (abs) (R98). -/
def State.indTarget (s : State) (w : Word) : Word := s.readWord w

/-- The target of JMP (abs,X) (R99). -/
def State.iaxTarget (s : State) (w : Word) : Word := s.readWord (w + zext16 s.x)

/-- The target of a relative offset, from pc at the byte after the instruction (R85, R100, R101). -/
def State.relTarget (s : State) (r : Byte) : Word := s.pc + sext16 r

end Sys2Proof.Machine
end

