-- ==== Sys2Proof/Machine/Alu.lean ====
section
/-! DEFINITION. Arithmetic, logic, compare, bit test, increment and decrement (spec/41_alu.md R165 to R186). -/

namespace Sys2Proof.Machine

/-- The outputs of an adder primitive written: A, C, V, and N and Z from the result (R166, R167). -/
def State.takeSum (s : State) (r : Sum) : State := (s.setP (setCVNZ r.carry r.overflow r.r s.p)).setA r.r

/-- Decimal mode with an invalid BCD operand (R165): A, C, Z, N and V are five free values, the other flags are kept.
Log 7. -/
def State.drawSum (s : State) : State :=
  let n := s.draws
  let p1 := setFlag .c (Config.freeBit (n + 1)) s.p
  let p2 := setFlag .z (Config.freeBit (n + 2)) p1
  let p3 := setFlag .n (Config.freeBit (n + 3)) p2
  let p4 := setFlag .v (Config.freeBit (n + 4)) p3
  ((s.setP p4).setA (Config.freeByte n)).addDraws 5

/-- The choice ADC and SBC share (R166, R167): binary when D is 0, decimal when D is 1 and both operands are valid BCD,
drawn otherwise. -/
def State.addSub (s : State) (binary decimal : Byte → Byte → Bool → Sum) (m : Byte) : State :=
  if s.flag .d then
    if bcdValid s.a && bcdValid m then s.takeSum (decimal s.a m (s.flag .c)) else s.drawSum
  else s.takeSum (binary s.a m (s.flag .c))

/-- A logic result into A (R168 to R170). -/
def State.logicA (s : State) (v : Byte) : State := (s.setA v).nz v

/-- A register compared with an operand (R171). -/
def State.compare (s : State) (r m : Byte) : State := s.setP (setCompare r m s.p)

/-- One read and one write of the same byte, N and Z from the byte written (R177, R181). -/
def State.modifyNZ (s : State) (a : Word) (f : Byte → Byte) : State :=
  let r := f (s.read a)
  (s.write a r).nz r

/-- One read and one write of the same byte, Z from `A AND M` before the write (R185, R186). -/
def State.testModify (s : State) (a : Word) (f : Byte → Byte) : State :=
  let m := s.read a
  (s.setP (setTestZ s.a m s.p)).write a (f m)

/-- ADC (R166). -/
def execAdc (o : Operand) (s : State) : Host.Outcome State Fault Refusal := .next (s.addSub addBin addDec (s.operand o))

/-- SBC (R167). -/
def execSbc (o : Operand) (s : State) : Host.Outcome State Fault Refusal := .next (s.addSub subBin subDec (s.operand o))

/-- AND (R168). -/
def execAnd (o : Operand) (s : State) : Host.Outcome State Fault Refusal := .next (s.logicA (s.a &&& s.operand o))

/-- ORA (R169). -/
def execOra (o : Operand) (s : State) : Host.Outcome State Fault Refusal := .next (s.logicA (s.a ||| s.operand o))

/-- EOR (R170). -/
def execEor (o : Operand) (s : State) : Host.Outcome State Fault Refusal := .next (s.logicA (s.a ^^^ s.operand o))

/-- CMP (R172). -/
def execCmp (o : Operand) (s : State) : Host.Outcome State Fault Refusal := .next (s.compare s.a (s.operand o))

/-- CPX (R173). -/
def execCpx (o : Operand) (s : State) : Host.Outcome State Fault Refusal := .next (s.compare s.x (s.operand o))

/-- CPY (R174). -/
def execCpy (o : Operand) (s : State) : Host.Outcome State Fault Refusal := .next (s.compare s.y (s.operand o))

/-- BIT, memory modes (R175). -/
def execBit (m : Addr) (s : State) : Host.Outcome State Fault Refusal := .next (s.setP (setBit s.a (s.read (s.ea m)) s.p))

/-- BIT # (R176): Z only. -/
def execBitImm (v : Byte) (s : State) : Host.Outcome State Fault Refusal := .next (s.setP (setTestZ s.a v s.p))

/-- INC on memory (R177). -/
def execInc (m : Addr) (s : State) : Host.Outcome State Fault Refusal := .next (s.modifyNZ (s.ea m) (· + 1))

/-- INC A (R178). -/
def execIncA (s : State) : Host.Outcome State Fault Refusal := .next (s.logicA (s.a + 1))

/-- INX (R179). -/
def execInx (s : State) : Host.Outcome State Fault Refusal := .next ((s.setX (s.x + 1)).nz (s.x + 1))

/-- INY (R180). -/
def execIny (s : State) : Host.Outcome State Fault Refusal := .next ((s.setY (s.y + 1)).nz (s.y + 1))

/-- DEC on memory (R181). -/
def execDec (m : Addr) (s : State) : Host.Outcome State Fault Refusal := .next (s.modifyNZ (s.ea m) (· - 1))

/-- DEC A (R182). -/
def execDecA (s : State) : Host.Outcome State Fault Refusal := .next (s.logicA (s.a - 1))

/-- DEX (R183). -/
def execDex (s : State) : Host.Outcome State Fault Refusal := .next ((s.setX (s.x - 1)).nz (s.x - 1))

/-- DEY (R184). -/
def execDey (s : State) : Host.Outcome State Fault Refusal := .next ((s.setY (s.y - 1)).nz (s.y - 1))

/-- TSB (R185). -/
def execTsb (m : Addr) (s : State) : Host.Outcome State Fault Refusal := .next (s.testModify (s.ea m) (· ||| s.a))

/-- TRB (R186). -/
def execTrb (m : Addr) (s : State) : Host.Outcome State Fault Refusal := .next (s.testModify (s.ea m) (· &&& (s.a ^^^ 0xFF)))


end Sys2Proof.Machine
end

