-- ==== Sys2Proof/Machine/Control.lean ====
section
/-! DEFINITION. Branches, jumps, calls, returns, BRK and NOP (spec/45_control.md R260 to R277). -/

namespace Sys2Proof.Machine

/-- `Branch(cond)` (R260). -/
def State.branch (s : State) (cond : Bool) (r : Byte) : State := if cond then s.setPc (s.relTarget r) else s

/-- BPL (R261). -/
def execBpl (r : Byte) (s : State) : Host.Outcome State Fault Refusal := .next (s.branch (!s.flag .n) r)

/-- BMI (R262). -/
def execBmi (r : Byte) (s : State) : Host.Outcome State Fault Refusal := .next (s.branch (s.flag .n) r)

/-- BVC (R263). -/
def execBvc (r : Byte) (s : State) : Host.Outcome State Fault Refusal := .next (s.branch (!s.flag .v) r)

/-- BVS (R264). -/
def execBvs (r : Byte) (s : State) : Host.Outcome State Fault Refusal := .next (s.branch (s.flag .v) r)

/-- BCC (R265). -/
def execBcc (r : Byte) (s : State) : Host.Outcome State Fault Refusal := .next (s.branch (!s.flag .c) r)

/-- BCS (R266). -/
def execBcs (r : Byte) (s : State) : Host.Outcome State Fault Refusal := .next (s.branch (s.flag .c) r)

/-- BNE (R267). -/
def execBne (r : Byte) (s : State) : Host.Outcome State Fault Refusal := .next (s.branch (!s.flag .z) r)

/-- BEQ (R268). -/
def execBeq (r : Byte) (s : State) : Host.Outcome State Fault Refusal := .next (s.branch (s.flag .z) r)

/-- BRA (R269). -/
def execBra (r : Byte) (s : State) : Host.Outcome State Fault Refusal := .next (s.branch true r)

/-- JMP absolute (R270). -/
def execJmp (w : Word) (s : State) : Host.Outcome State Fault Refusal := .next (s.setPc w)

/-- JMP (abs) (R271). -/
def execJmpInd (w : Word) (s : State) : Host.Outcome State Fault Refusal := .next (s.setPc (s.indTarget w))

/-- JMP (abs,X) (R272). -/
def execJmpIax (w : Word) (s : State) : Host.Outcome State Fault Refusal := .next (s.setPc (s.iaxTarget w))

/-- JSR (R273): the address of JSR's last byte is pushed. -/
def execJsr (w : Word) (s : State) : Host.Outcome State Fault Refusal := .next ((s.pushWord (s.pc - 1)).setPc w)

/-- RTS (R274): one is added to the pulled address. -/
def execRts (s : State) : Host.Outcome State Fault Refusal := .next (s.pullWord.2.setPc (s.pullWord.1 + 1))

/-- RTI (R275). -/
def execRti (s : State) : Host.Outcome State Fault Refusal := .next s.returnFromInterrupt

/-- BRK (R276): the entry shared with the interrupts, with B pushed as 1; the signature byte is skipped. -/
def execBrk (_sig : Byte) (s : State) : Host.Outcome State Fault Refusal := .next (s.enterInterrupt (withBU s.p) true 0xFFFE)

/-- NOP (R277). -/
def execNop (s : State) : Host.Outcome State Fault Refusal := .next s


end Sys2Proof.Machine
end

