-- ==== Sys2Proof/Machine/FlagOps.lean ====
section
/-! DEFINITION. Flag set and clear instructions (spec/43_flag_ops.md R220 to R226). -/

namespace Sys2Proof.Machine

/-- One flag of P written. -/
def State.putFlag (s : State) (f : Flag) (on : Bool) : State := s.setP (setFlag f on s.p)

/-- CLC (R220). -/
def execClc (s : State) : Host.Outcome State Fault Refusal := .next (s.putFlag .c false)

/-- SEC (R221). -/
def execSec (s : State) : Host.Outcome State Fault Refusal := .next (s.putFlag .c true)

/-- CLI (R222). -/
def execCli (s : State) : Host.Outcome State Fault Refusal := .next (s.putFlag .i false)

/-- SEI (R223). -/
def execSei (s : State) : Host.Outcome State Fault Refusal := .next (s.putFlag .i true)

/-- CLD (R224). -/
def execCld (s : State) : Host.Outcome State Fault Refusal := .next (s.putFlag .d false)

/-- SED (R225). -/
def execSed (s : State) : Host.Outcome State Fault Refusal := .next (s.putFlag .d true)

/-- CLV (R226). -/
def execClv (s : State) : Host.Outcome State Fault Refusal := .next (s.putFlag .v false)


end Sys2Proof.Machine
end

