-- ==== Sys2Proof/Machine/LoadStore.lean ====
section
/-! DEFINITION. Loads, stores and register transfers (spec/40_load_store_transfer.md R131 to R143). -/

namespace Sys2Proof.Machine

/-- A load: the operand into a register, N and Z from it. -/
def State.loadA (s : State) (v : Byte) : State := (s.setA v).nz v
/-- As `State.loadA`, into X. -/
def State.loadX (s : State) (v : Byte) : State := (s.setX v).nz v
/-- As `State.loadA`, into Y. -/
def State.loadY (s : State) (v : Byte) : State := (s.setY v).nz v

/-- LDA (R131). -/
def execLda (o : Operand) (s : State) : Host.Outcome State Fault Refusal := .next (s.loadA (s.operand o))

/-- LDX (R132). -/
def execLdx (o : Operand) (s : State) : Host.Outcome State Fault Refusal := .next (s.loadX (s.operand o))

/-- LDY (R133). -/
def execLdy (o : Operand) (s : State) : Host.Outcome State Fault Refusal := .next (s.loadY (s.operand o))

/-- STA (R134). -/
def execSta (m : Addr) (s : State) : Host.Outcome State Fault Refusal := .next (s.write (s.ea m) s.a)

/-- STX (R135). -/
def execStx (m : Addr) (s : State) : Host.Outcome State Fault Refusal := .next (s.write (s.ea m) s.x)

/-- STY (R136). -/
def execSty (m : Addr) (s : State) : Host.Outcome State Fault Refusal := .next (s.write (s.ea m) s.y)

/-- STZ (R137). -/
def execStz (m : Addr) (s : State) : Host.Outcome State Fault Refusal := .next (s.write (s.ea m) 0x00)

/-- TAX (R138). -/
def execTax (s : State) : Host.Outcome State Fault Refusal := .next (s.loadX s.a)

/-- TAY (R139). -/
def execTay (s : State) : Host.Outcome State Fault Refusal := .next (s.loadY s.a)

/-- TXA (R140). -/
def execTxa (s : State) : Host.Outcome State Fault Refusal := .next (s.loadA s.x)

/-- TYA (R141). -/
def execTya (s : State) : Host.Outcome State Fault Refusal := .next (s.loadA s.y)

/-- TSX (R142). -/
def execTsx (s : State) : Host.Outcome State Fault Refusal := .next (s.loadX s.sp)

/-- TXS (R143): no flag is written. -/
def execTxs (s : State) : Host.Outcome State Fault Refusal := .next (s.setSp s.x)


end Sys2Proof.Machine
end

