-- ==== Sys2Proof/Machine/Pause.lean ====
section
/-! DEFINITION. The pause extension and the unimplemented path (spec/47_pause_unimplemented.md R320 to R326). -/

namespace Sys2Proof.Machine

/-- The engine paused (R321): nothing else changes. -/
def State.pauseEngine (s : State) : State := s.setEngine .paused

/-- The unimplemented path under Fail (R324, R341): the fault record is the opcode's own address and the byte read
there; pc stays at the byte after the opcode. -/
def State.failUnimpl (s : State) (start : Word) (op : Byte) : State := s.setEngine (.faulted start op)

/-- The fault record of a core (R341): the one the engine state Faulted holds. Log 12. -/
def State.faultRecord (s : State) : Option Fault :=
  match s.engine with
  | .faulted addr op => some (.unimplementedInstruction addr op)
  | .off | .waitingForReset | .running | .paused => none

/-- The unimplemented path under Nop (R324): only pc changes, to `len` bytes past the opcode's address. -/
def State.skipUnimpl (s : State) (start : Word) (len : Nat) : State := s.setPc (start + BitVec.ofNat 16 len)

/-- `P_UNIMPL_LEN(op)` (R324), 1 to 4. Log 6. -/
def unimplLength (op : Byte) : Nat := (Config.unimplLen op).val + 1

/-- WAI (R322). -/
def execWai (s : State) : Host.Outcome State Fault Refusal := .next s.pauseEngine

/-- STP (R323): the same as WAI (D34). -/
def execStp (s : State) : Host.Outcome State Fault Refusal := .next s.pauseEngine

/-- An opcode on the unimplemented path (R324); pc is the byte after it. -/
def execUnimpl (op : Byte) (s : State) : Host.Outcome State Fault Refusal :=
  match s.cfg.unimplPolicy with
  | .fail => .next (s.failUnimpl (s.pc - 1) op)
  | .nop => .next (s.skipUnimpl (s.pc - 1) (unimplLength op))


end Sys2Proof.Machine
end

