-- ==== Sys2Proof/Machine/Shift.lean ====
section
/-! DEFINITION. The shift and rotate unit (spec/42_shift_rotate.md R200 to R204). -/

namespace Sys2Proof.Machine

/-- ASL's movement (R201): the result and the carry out. -/
def aslByte (v : Byte) (_c : Bool) : Byte × Bool := (v <<< 1, v.getLsbD 7)
/-- LSR's movement (R202). -/
def lsrByte (v : Byte) (_c : Bool) : Byte × Bool := (v >>> 1, v.getLsbD 0)
/-- ROL's movement (R203). -/
def rolByte (v : Byte) (c : Bool) : Byte × Bool := ((v <<< 1) ||| (if c then 0x01 else 0x00), v.getLsbD 7)
/-- ROR's movement (R204). -/
def rorByte (v : Byte) (c : Bool) : Byte × Bool := ((if c then 0x80 else 0x00) ||| (v >>> 1), v.getLsbD 0)

/-- `ShiftOp` (R200): on A, or on a memory byte read once and written once. -/
def State.shiftOp (s : State) (f : Byte → Bool → Byte × Bool) : Target → State
  | .acc =>
    let (r, co) := f s.a (s.flag .c)
    (s.setA r).setP (setCNZ co r s.p)
  | .mem m =>
    let ea := s.ea m
    let (r, co) := f (s.read ea) (s.flag .c)
    (s.write ea r).setP (setCNZ co r s.p)

/-- ASL (R201). -/
def execAsl (t : Target) (s : State) : Host.Outcome State Fault Refusal := .next (s.shiftOp aslByte t)

/-- LSR (R202). -/
def execLsr (t : Target) (s : State) : Host.Outcome State Fault Refusal := .next (s.shiftOp lsrByte t)

/-- ROL (R203). -/
def execRol (t : Target) (s : State) : Host.Outcome State Fault Refusal := .next (s.shiftOp rolByte t)

/-- ROR (R204). -/
def execRor (t : Target) (s : State) : Host.Outcome State Fault Refusal := .next (s.shiftOp rorByte t)


end Sys2Proof.Machine
end

