-- ==== Sys2Proof/Machine/Stack.lean ====
section
/-! DEFINITION. Stack instructions (spec/44_stack.md R242 to R249). -/

namespace Sys2Proof.Machine

/-- PHA (R242). -/
def execPha (s : State) : Host.Outcome State Fault Refusal := .next (s.push s.a)

/-- PHP (R243). B and U are pushed as 1. -/
def execPhp (s : State) : Host.Outcome State Fault Refusal := .next (s.push (withBU s.p))

/-- PHX (R244). -/
def execPhx (s : State) : Host.Outcome State Fault Refusal := .next (s.push s.x)

/-- PHY (R245). -/
def execPhy (s : State) : Host.Outcome State Fault Refusal := .next (s.push s.y)

/-- PLA (R246). -/
def execPla (s : State) : Host.Outcome State Fault Refusal := .next ((s.pull.2.setA s.pull.1).nz s.pull.1)

/-- PLX (R248). -/
def execPlx (s : State) : Host.Outcome State Fault Refusal := .next ((s.pull.2.setX s.pull.1).nz s.pull.1)

/-- PLY (R249). -/
def execPly (s : State) : Host.Outcome State Fault Refusal := .next ((s.pull.2.setY s.pull.1).nz s.pull.1)

/-- PLP (R247): B and U are forced to 1. -/
def execPlp (s : State) : Host.Outcome State Fault Refusal := .next (s.pull.2.setP (withBU s.pull.1))


end Sys2Proof.Machine
end

