-- ==== Sys2Proof/Machine/VendorBits.lean ====
section
/-! DEFINITION. Vendor bit instructions (spec/46_vendor_bits.md R300 to R304). -/

namespace Sys2Proof.Machine

/-- `1 << b` as a byte (R301, R302). -/
def bitMask (b : Nat) : Byte := 1#8 <<< b

/-- RMBb (R301): one read and one write of the zero-page byte. -/
def State.resetBit (s : State) (b : Nat) (z : Byte) : State :=
  s.write (zext16 z) (s.read (zext16 z) &&& ~~~(bitMask b))

/-- SMBb (R302). -/
def State.setBit (s : State) (b : Nat) (z : Byte) : State :=
  s.write (zext16 z) (s.read (zext16 z) ||| bitMask b)

/-- BBRb and BBSb (R303, R304): branch when the tested bit of the zero-page byte is `on`. -/
def State.branchBit (s : State) (b : Nat) (on : Bool) (z r : Byte) : State :=
  if (s.read (zext16 z)).getLsbD b == on then s.setPc (s.relTarget r) else s

/-- RMB0 (R301). -/
def execRmb0 (z : Byte) (s : State) : Host.Outcome State Fault Refusal := .next (s.resetBit 0 z)

/-- RMB1 (R301). -/
def execRmb1 (z : Byte) (s : State) : Host.Outcome State Fault Refusal := .next (s.resetBit 1 z)

/-- RMB2 (R301). -/
def execRmb2 (z : Byte) (s : State) : Host.Outcome State Fault Refusal := .next (s.resetBit 2 z)

/-- RMB3 (R301). -/
def execRmb3 (z : Byte) (s : State) : Host.Outcome State Fault Refusal := .next (s.resetBit 3 z)

/-- RMB4 (R301). -/
def execRmb4 (z : Byte) (s : State) : Host.Outcome State Fault Refusal := .next (s.resetBit 4 z)

/-- RMB5 (R301). -/
def execRmb5 (z : Byte) (s : State) : Host.Outcome State Fault Refusal := .next (s.resetBit 5 z)

/-- RMB6 (R301). -/
def execRmb6 (z : Byte) (s : State) : Host.Outcome State Fault Refusal := .next (s.resetBit 6 z)

/-- RMB7 (R301). -/
def execRmb7 (z : Byte) (s : State) : Host.Outcome State Fault Refusal := .next (s.resetBit 7 z)

/-- SMB0 (R302). -/
def execSmb0 (z : Byte) (s : State) : Host.Outcome State Fault Refusal := .next (s.setBit 0 z)

/-- SMB1 (R302). -/
def execSmb1 (z : Byte) (s : State) : Host.Outcome State Fault Refusal := .next (s.setBit 1 z)

/-- SMB2 (R302). -/
def execSmb2 (z : Byte) (s : State) : Host.Outcome State Fault Refusal := .next (s.setBit 2 z)

/-- SMB3 (R302). -/
def execSmb3 (z : Byte) (s : State) : Host.Outcome State Fault Refusal := .next (s.setBit 3 z)

/-- SMB4 (R302). -/
def execSmb4 (z : Byte) (s : State) : Host.Outcome State Fault Refusal := .next (s.setBit 4 z)

/-- SMB5 (R302). -/
def execSmb5 (z : Byte) (s : State) : Host.Outcome State Fault Refusal := .next (s.setBit 5 z)

/-- SMB6 (R302). -/
def execSmb6 (z : Byte) (s : State) : Host.Outcome State Fault Refusal := .next (s.setBit 6 z)

/-- SMB7 (R302). -/
def execSmb7 (z : Byte) (s : State) : Host.Outcome State Fault Refusal := .next (s.setBit 7 z)

/-- BBR0 (R303). -/
def execBbr0 (z r : Byte) (s : State) : Host.Outcome State Fault Refusal := .next (s.branchBit 0 false z r)

/-- BBR1 (R303). -/
def execBbr1 (z r : Byte) (s : State) : Host.Outcome State Fault Refusal := .next (s.branchBit 1 false z r)

/-- BBR2 (R303). -/
def execBbr2 (z r : Byte) (s : State) : Host.Outcome State Fault Refusal := .next (s.branchBit 2 false z r)

/-- BBR3 (R303). -/
def execBbr3 (z r : Byte) (s : State) : Host.Outcome State Fault Refusal := .next (s.branchBit 3 false z r)

/-- BBR4 (R303). -/
def execBbr4 (z r : Byte) (s : State) : Host.Outcome State Fault Refusal := .next (s.branchBit 4 false z r)

/-- BBR5 (R303). -/
def execBbr5 (z r : Byte) (s : State) : Host.Outcome State Fault Refusal := .next (s.branchBit 5 false z r)

/-- BBR6 (R303). -/
def execBbr6 (z r : Byte) (s : State) : Host.Outcome State Fault Refusal := .next (s.branchBit 6 false z r)

/-- BBR7 (R303). -/
def execBbr7 (z r : Byte) (s : State) : Host.Outcome State Fault Refusal := .next (s.branchBit 7 false z r)

/-- BBS0 (R304). -/
def execBbs0 (z r : Byte) (s : State) : Host.Outcome State Fault Refusal := .next (s.branchBit 0 true z r)

/-- BBS1 (R304). -/
def execBbs1 (z r : Byte) (s : State) : Host.Outcome State Fault Refusal := .next (s.branchBit 1 true z r)

/-- BBS2 (R304). -/
def execBbs2 (z r : Byte) (s : State) : Host.Outcome State Fault Refusal := .next (s.branchBit 2 true z r)

/-- BBS3 (R304). -/
def execBbs3 (z r : Byte) (s : State) : Host.Outcome State Fault Refusal := .next (s.branchBit 3 true z r)

/-- BBS4 (R304). -/
def execBbs4 (z r : Byte) (s : State) : Host.Outcome State Fault Refusal := .next (s.branchBit 4 true z r)

/-- BBS5 (R304). -/
def execBbs5 (z r : Byte) (s : State) : Host.Outcome State Fault Refusal := .next (s.branchBit 5 true z r)

/-- BBS6 (R304). -/
def execBbs6 (z r : Byte) (s : State) : Host.Outcome State Fault Refusal := .next (s.branchBit 6 true z r)

/-- BBS7 (R304). -/
def execBbs7 (z r : Byte) (s : State) : Host.Outcome State Fault Refusal := .next (s.branchBit 7 true z r)


end Sys2Proof.Machine
end

