-- ==== Sys2Proof/Machine/HostOps.lean ====
section
/-! DEFINITION. The host's operations (spec/60_exceptions.md R343 to R348, R358, R361): each is one atomic step. -/

namespace Sys2Proof.Machine

/-- What the host is answered. -/
def State.answer (s : State) (r : HostReply) : State := { s with reply := r }

/-- `turn_on` (R348): Off only, otherwise MISUSE with no effect (R343). -/
def State.turnOn (s : State) : State :=
  match s.engine with
  | .off => ((s.setP (withBU s.p)).setEngine .waitingForReset).answer .done
  | .waitingForReset | .running | .paused | .faulted _ _ => s.answer .misuse

/-- `turn_off` (R358): not Off, otherwise MISUSE with no effect (R343). Memory and configuration are kept. -/
def State.turnOff (s : State) : State :=
  match s.engine with
  | .off => s.answer .misuse
  | .waitingForReset | .running | .paused | .faulted _ _ =>
    { s with
        a := 0, x := 0, y := 0, sp := 0, p := 0, pc := 0
        resetPending := false, nmiPending := false, irqAsserted := false
        nmiLineHigh := false, resetLineHigh := false
        engine := .off, reply := .done }

/-- `reset_low` (R345). -/
def State.resetLow (s : State) : State := { s with resetLineHigh := false, reply := .done }

/-- `reset_high` (R345): a rising edge latches a reset. -/
def State.resetHigh (s : State) : State :=
  { s with resetPending := s.resetPending || !s.resetLineHigh, resetLineHigh := true, reply := .done }

/-- `nmi_high` (R345). -/
def State.nmiHigh (s : State) : State := { s with nmiLineHigh := true, reply := .done }

/-- `nmi_low` (R345): a falling edge latches an NMI. -/
def State.nmiLow (s : State) : State :=
  { s with nmiPending := s.nmiPending || s.nmiLineHigh, nmiLineHigh := false, reply := .done }

/-- `irq_low` (R345): a level. -/
def State.irqLow (s : State) : State := { s with irqAsserted := true, reply := .done }

/-- `irq_high` (R345). -/
def State.irqHigh (s : State) : State := { s with irqAsserted := false, reply := .done }

/-- A configuration call (R361): Off only, otherwise refused with no effect (U19). -/
def State.configure (s : State) (c : Settings) : State :=
  match s.engine with
  | .off => { s with cfg := c, reply := .done }
  | .waitingForReset | .running | .paused | .faulted _ _ => s.answer .refused

/-- `change_period` (R413): any engine state. -/
def State.changePeriod (s : State) (d : Nat) : State := { s with cfg := { s.cfg with clockPeriod := d }, reply := .done }

/-- The engine states in which the host may touch memory (R361, D25). -/
def hostMayAccess : Engine → Bool
  | .off | .waitingForReset | .faulted _ _ => true
  | .running | .paused => false

/-- A host memory read (R361): the byte is answered, nothing else changes; refused while the core may run (U20). -/
def State.hostRead (s : State) (a : Word) : State :=
  if hostMayAccess s.engine then s.answer (.byte (s.read a)) else s.answer .refused

/-- A host memory write (R361); refused with no effect while the core may run (U20). -/
def State.hostWrite (s : State) (a : Word) (v : Byte) : State :=
  if hostMayAccess s.engine then (s.write a v).answer .done else s.answer .refused

/-- One host step (R361). -/
def hostStep (op : HostOp) (s : State) : State :=
  match op with
  | .turnOn => s.turnOn
  | .turnOff => s.turnOff
  | .resetLow => s.resetLow
  | .resetHigh => s.resetHigh
  | .nmiLow => s.nmiLow
  | .nmiHigh => s.nmiHigh
  | .irqLow => s.irqLow
  | .irqHigh => s.irqHigh
  | .failOnUnimplemented => s.configure { s.cfg with unimplPolicy := .fail }
  | .nopOnUnimplemented => s.configure { s.cfg with unimplPolicy := .nop }
  | .vendorExtensions b => s.configure { s.cfg with vendorExt := b }
  | .pauseExtensions b => s.configure { s.cfg with pauseExt := b }
  | .changePeriod d => s.changePeriod d
  | .memRead a => s.hostRead a
  | .memWrite a v => s.hostWrite a v

end Sys2Proof.Machine
end

