-- ==== Sys2Proof/Machine/Interrupts.lean ====
section
/-! DEFINITION. Interrupt service (spec/60_exceptions.md R344 to R357) and attention (spec/10_state.md R36). -/

namespace Sys2Proof.Machine

/-- `attention_needed` (R36). -/
def State.attention (s : State) : Bool := s.resetPending || s.nmiPending || (s.irqAsserted && !s.flag .i)

/-- Reset service (R352): the reset and NMI latches are cleared (C1), nothing is pushed, pc is the reset vector's word. -/
def State.resetService (s : State) : State :=
  let t := { s with resetPending := false, nmiPending := false }
  let u := if s.cfg.resetMasks then t.setP (maskInterrupts t.p) else t
  u.setPc (u.readWord 0xFFFC)

/-- NMI service (R353). -/
def State.nmiService (s : State) : State :=
  let t := { s with nmiPending := false }
  t.enterInterrupt (nmiPushedP s.cfg.nmiPushB s.p) s.cfg.nmiMasks 0xFFFA

/-- IRQ service (R354): the line level is not cleared. -/
def State.irqService (s : State) : State := s.enterInterrupt (irqPushedP s.p) true 0xFFFE

/-- `attend()` (R351): exactly one service, reset before NMI before IRQ. Called only when attention is needed; otherwise
nothing is serviced. -/
def State.attend (s : State) : State :=
  if s.resetPending then s.resetService
  else if s.nmiPending then s.nmiService
  else if s.irqAsserted && !s.flag .i then s.irqService
  else s

end Sys2Proof.Machine
end

