-- ==== Sys2Proof/Machine/Iteration.lean ====
section
/-! DEFINITION. The engine loop (spec/60_exceptions.md R347 to R350): fetching and running one instruction, one
iteration, and the core's turn in each engine state. -/

namespace Sys2Proof.Machine

/-- The instruction at pc (R82): the opcode byte and the two bytes after it, addresses modulo 2^16. A byte the format
does not have is ignored by the decoder, so no access is made for it (log 10). -/
def State.fetch (s : State) : Instr := decodeOpcode s.cfg.ext (s.read s.pc) (s.read (s.pc + 1)) (s.read (s.pc + 2))

/-- `next_instruction()` (R82): pc moves past the instruction's bytes, then its meaning runs. -/
def State.nextInstruction (s : State) : Host.Outcome State Fault Refusal :=
  exec s.fetch (s.setPc (s.pc + BitVec.ofNat 16 s.fetch.length))

/-- An iteration (R350): at most one service, then exactly one instruction. -/
def State.iteration (s : State) : Host.Outcome State Fault Refusal :=
  if s.attention then s.attend.nextInstruction else s.nextInstruction

/-- The core's turn in each engine state (R347). "No step" leaves the state as it is (log 11): so in Faulted, which only
`turn_off` leaves (R342). -/
def State.coreStep (s : State) : Host.Outcome State Fault Refusal :=
  match s.engine with
  | .off => .next s
  | .waitingForReset =>
    if s.resetPending && s.resetLineHigh then (s.setEngine .running).iteration else .next s
  | .running => if s.resetLineHigh then s.iteration else .next s
  | .paused => if s.resetLineHigh && s.attention then (s.setEngine .running).iteration else .next s
  | .faulted _ _ => .next s

/-- The turns still to come written. -/
def State.setSchedule (s : State) (l : List Turn) : State := { s with schedule := l }

/-- The next turn of the schedule; the core's when none is listed (R66, D22, log 8). -/
def State.takeTurn (s : State) : Host.Outcome State Fault Refusal :=
  match s.schedule with
  | [] => s.coreStep
  | .core :: rest => (s.setSchedule rest).coreStep
  | .host op :: rest => .next (hostStep op (s.setSchedule rest))

/-- Bytes stored at rising addresses, modulo 2^16. -/
def State.storeBytes (s : State) (a : Word) : List Byte → State
  | [] => s
  | v :: rest => (s.write a v).storeBytes (a + 1) rest

/-- The state in which the very next turn is an iteration with nothing to service: Running, reset line high, no latch,
the core's turn. -/
def State.readyToRun (s : State) : State :=
  { s with
      engine := .running, resetLineHigh := true, resetPending := false, nmiPending := false, irqAsserted := false
      schedule := [] }

end Sys2Proof.Machine
end

