-- ==== Sys2Proof/Machine/Step.lean ====
section
/-! DEFINITION. The step, and placing an instruction where the step fetches. -/

namespace Sys2Proof.Machine

/-- One step: the next turn, the core's iteration or one host operation (R2, R66). -/
def step (s : State) : Host.Outcome State Fault Refusal := s.takeTurn

/-- The state with an instruction word of the opcode table stored at pc, ready to run it in the very next step: at
State.reset only the bytes are stored. Log 3. -/
def State.withFetchWord (s : State) (nbits w : Nat) : State :=
  s.readyToRun.storeBytes s.pc (tableBytes nbits w)

end Sys2Proof.Machine
end

