-- ==== Sys2Proof/Safety.lean ====
section
/-! DEFINITION. What the claims are stated in: the invariant of a run, how P changed, and the engine states in which the
core is on. -/

namespace Sys2Proof.Machine

/-- A, X, Y, S and pc are zero: what construction and `turn_off` leave (R41). -/
def State.registersZero (s : State) : Prop := s.a = 0 ∧ s.x = 0 ∧ s.y = 0 ∧ s.sp = 0 ∧ s.pc = 0

/-- B and U are stored as 1 (R26, R27). -/
def State.storedBU (s : State) : Prop := getFlag .b s.p = true ∧ getFlag .u s.p = true

/-- What each engine state promises. Off: the values of construction or of `turn_off` (R41). WaitingForReset: P = 0x30
either way (R404). On: B and U stored as 1 (R26, R27). Paused: the pause extension is enabled (R320). Faulted: pc is the
byte after the recorded opcode, which lies on the unimplemented path under Fail (R324, R342). -/
def State.engineInv (s : State) : Prop :=
  match s.engine with
  | .off => s.registersZero ∧ (s.p = 0x20 ∨ s.p = 0x00)
  | .waitingForReset => s.registersZero ∧ s.p = 0x30
  | .running => s.storedBU
  | .paused => s.storedBU ∧ s.cfg.pauseExt = true
  | .faulted addr op =>
    s.storedBU ∧ s.pc = addr + 1 ∧ s.cfg.unimplPolicy = .fail ∧ unimplOpcode s.cfg.ext op = true

/-- The invariant of a run: memory is in canonical form, and the engine state's promise holds. -/
def State.Inv (s : State) : Prop := s.mem.wf = true ∧ s.engineInv

/-- It is the core's turn: nothing is scheduled, or the core is. -/
def State.coreTurn (s : State) : Prop := s.schedule = [] ∨ ∃ l, s.schedule = .core :: l

/-- The state with its next turn taken off the schedule. -/
def State.turnTaken (s : State) : State := s.setSchedule s.schedule.tail

/-- The fetch loop runs at the next turn without a wait: Running, the reset line high, the core's turn (R350). -/
def State.canRun (s : State) : Prop := s.engine = .running ∧ s.resetLineHigh = true ∧ s.coreTurn

/-- The three bytes at pc, addresses modulo 2^16 (R81). -/
def State.bytesAtPc (s : State) : List Byte := [s.read s.pc, s.read (s.pc + 1), s.read (s.pc + 2)]

/-- P after a write of Z and N from a byte (R34): the other six flags are as before. -/
def WroteNZ (v p p' : Byte) : Prop :=
  ∀ f, getFlag f p' = if f = .z then decide (v = 0) else if f = .n then decide (128 ≤ v.toNat) else getFlag f p

/-- P after a write of C, and of Z and N from a byte: the other five flags are as before. -/
def WroteCNZ (c : Bool) (v p p' : Byte) : Prop :=
  ∀ f, getFlag f p' =
    if f = .c then c else if f = .z then decide (v = 0) else if f = .n then decide (128 ≤ v.toNat) else getFlag f p

/-- P after a write of C and V, and of Z and N from a byte: I, D, B and U are as before. -/
def WroteCVNZ (c o : Bool) (v p p' : Byte) : Prop :=
  ∀ f, getFlag f p' =
    if f = .c then c else if f = .v then o
    else if f = .z then decide (v = 0) else if f = .n then decide (128 ≤ v.toNat) else getFlag f p

/-- P after a write of one flag: the other seven are as before. -/
def WroteFlag (g : Flag) (on : Bool) (p p' : Byte) : Prop := ∀ f, getFlag f p' = if f = g then on else getFlag f p

/-- P after I is set and D cleared: the other six flags are as before. -/
def WroteMask (p p' : Byte) : Prop :=
  ∀ f, getFlag f p' = if f = .i then true else if f = .d then false else getFlag f p

/-- Exactly one memory byte may differ, every other piece of state is as before: the effect of a store. -/
def WroteByte (s t : State) (a : Word) (v : Byte) : Prop :=
  t = { s with mem := t.mem } ∧ ∀ b, t.read b = if b = a then v else s.read b

/-- The effect of taking an interrupt (R276, R353, R354): three bytes pushed, S down by three, I set and D cleared where
the entry masks, pc the vector's word, every other piece of state as before. -/
def EnteredInterrupt (s t : State) (pushed : Byte) (masks : Bool) (vector : Word) : Prop :=
  ∃ p', t = { s with mem := t.mem, sp := s.sp - 3, p := p', pc := t.readWord vector } ∧
    (if masks then WroteMask s.p p' else p' = s.p) ∧
    ∀ b, t.read b =
      if b.toNat = 256 + s.sp.toNat then BitVec.ofNat 8 (s.pc.toNat / 256)
      else if b.toNat = 256 + (s.sp - 1).toNat then BitVec.ofNat 8 s.pc.toNat
      else if b.toNat = 256 + (s.sp - 2).toNat then pushed
      else s.read b

/-- The decimal number of a BCD byte (R162). -/
def decVal (v : Byte) : Nat := 10 * (v.toNat / 16) + v.toNat % 16

/-- Both digits of a byte are at most 9 (R162). -/
def isBcd (v : Byte) : Prop := v.toNat / 16 ≤ 9 ∧ v.toNat % 16 ≤ 9

/-- Bytes pushed one after the other. -/
def State.pushAll (s : State) : List Byte → State
  | [] => s
  | v :: rest => (s.push v).pushAll rest

/-- Bytes pulled one after the other, the first pulled first. -/
def State.pullMany (s : State) : Nat → List Byte × State
  | 0 => ([], s)
  | n + 1 =>
    let (v, t) := s.pull
    let (rest, u) := t.pullMany n
    (v :: rest, u)

/-- The instructions that may write a flag: R28 to R33, and for B and U the pulls of P (R26, R27). -/
def mayWriteFlag (f : Flag) (i : Instr) : Bool :=
  match f, i with
  | _, .plp | _, .rti => true
  | .c, .adc _ | .c, .sbc _ | .c, .cmp _ | .c, .cpx _ | .c, .cpy _ => true
  | .c, .asl _ | .c, .lsr _ | .c, .rol _ | .c, .ror _ | .c, .clc | .c, .sec => true
  | .i, .cli | .i, .sei | .i, .brk _ => true
  | .d, .cld | .d, .sed | .d, .brk _ => true
  | .v, .adc _ | .v, .sbc _ | .v, .bit _ | .v, .clv => true
  | .z, .bit _ | .z, .bitImm _ | .z, .tsb _ | .z, .trb _ | .n, .bit _ => true
  | .z, i | .n, i =>
    match i with
    | .lda _ | .ldx _ | .ldy _ | .tax | .tay | .txa | .tya | .tsx => true
    | .adc _ | .sbc _ | .and _ | .ora _ | .eor _ | .cmp _ | .cpx _ | .cpy _ => true
    | .inc _ | .incA | .inx | .iny | .dec _ | .decA | .dex | .dey => true
    | .asl _ | .lsr _ | .rol _ | .ror _ | .pla | .plx | .ply => true
    | _ => false
  | _, _ => false

/-- The instructions whose destination is A (R20). -/
def mayWriteA : Instr → Bool
  | .lda _ | .txa | .tya | .adc _ | .sbc _ | .and _ | .ora _ | .eor _ | .incA | .decA | .pla => true
  | .asl .acc | .lsr .acc | .rol .acc | .ror .acc => true
  | _ => false

/-- The instructions whose destination is X (R21). -/
def mayWriteX : Instr → Bool
  | .ldx _ | .tax | .tsx | .inx | .dex | .plx => true
  | _ => false

/-- The instructions whose destination is Y (R22). -/
def mayWriteY : Instr → Bool
  | .ldy _ | .tay | .iny | .dey | .ply => true
  | _ => false

/-- The instructions that move S (R23): TXS, the pushes and pulls, and the calls, returns and BRK. -/
def mayMoveS : Instr → Bool
  | .txs | .pha | .php | .phx | .phy | .pla | .plp | .plx | .ply | .jsr _ | .rts | .rti | .brk _ => true
  | _ => false

/-- Two states agree on the latches, the lines, the configuration, the schedule and the host's reply. -/
def State.sameHostSide (s t : State) : Prop :=
  t.resetPending = s.resetPending ∧ t.nmiPending = s.nmiPending ∧ t.irqAsserted = s.irqAsserted ∧
  t.nmiLineHigh = s.nmiLineHigh ∧ t.resetLineHigh = s.resetLineHigh ∧ t.cfg = s.cfg ∧
  t.schedule = s.schedule ∧ t.reply = s.reply

end Sys2Proof.Machine
end

