-- ==== Sys2Proof/Certificates/Slice0/Obligations.lean ====
section
/-! DEFINITION. The statements for the provers, in the order of the spec's files. A meaning runs with pc at the byte after
the instruction (R24), so `s.pc` below is `pc_after`; `{ s with … }` names every piece of state an instruction changes,
and so is its frame. -/

open Sys2Proof Sys2Proof.Machine

/-! ### Encoding (30_encoding.md) -/

/-- Every well-formed instruction, under either setting of the two toggles, is read back from its bytes with every operand
(R81, R83, R103, R107); whatever bytes follow are left. -/
def Obligations.EncodeThenDecodeGivesInstruction : Prop :=
  ∀ (ext : Extensions) (i : Instr) (rest : List Byte),
    i.wf ext = true → decode ext (encode i ++ rest) = .ok i rest

/-- What is decoded is well-formed and encodes to the bytes it was read from, so each word has one meaning. -/
def Obligations.DecodedInstructionReencodes : Prop :=
  ∀ (ext : Extensions) (bs rest : List Byte) (i : Instr),
    decode ext bs = .ok i rest → i.wf ext = true ∧ encode i ++ rest = bs

/-- Words written out from the "Encoding:" lines, a few of each family. -/
def Obligations.SpecWordsDecode : Prop :=
  decode ⟨true, true⟩ [0xA9, 0x00] = .ok (.lda (.imm 0x00)) [] ∧
  decode ⟨true, true⟩ [0xB6, 0xFF] = .ok (.ldx (.mem (.zpy 0xFF))) [] ∧
  decode ⟨true, true⟩ [0x9D, 0x01, 0xFF] = .ok (.sta (.absx 0xFF01)) [] ∧
  decode ⟨true, true⟩ [0x71, 0x40] = .ok (.adc (.mem (.izy 0x40))) [] ∧
  decode ⟨true, true⟩ [0x89, 0xF0] = .ok (.bitImm 0xF0) [] ∧
  decode ⟨true, true⟩ [0x7E, 0xFF, 0x02] = .ok (.ror (.mem (.absx 0x02FF))) [] ∧
  decode ⟨true, true⟩ [0x58] = .ok .cli [] ∧
  decode ⟨true, true⟩ [0xDA] = .ok .phx [] ∧
  decode ⟨true, true⟩ [0x7C, 0x00, 0x30] = .ok (.jmpIax 0x3000) [] ∧
  decode ⟨true, true⟩ [0x00, 0xEA] = .ok (.brk 0xEA) [] ∧
  decode ⟨true, true⟩ [0x37, 0x10] = .ok (.rmb3 0x10) [] ∧
  decode ⟨true, true⟩ [0xFF, 0x20, 0xF0] = .ok (.bbs7 0x20 0xF0) [] ∧
  decode ⟨true, true⟩ [0xCB] = .ok .wai [] ∧
  decode ⟨false, true⟩ [0x37, 0x10] = .ok (.unimpl 0x37) [0x10] ∧
  decode ⟨true, false⟩ [0xDB] = .ok (.unimpl 0xDB) [] ∧
  decode ⟨true, true⟩ [0x5C, 0x11, 0x22] = .ok (.unimpl 0x5C) [0x11, 0x22]

/-- `Unimpl(cfg)`, set by set, and the counts of R104. -/
def Obligations.UnimplementedOpcodesAreTheRule : Prop :=
  (∀ (ext : Extensions) (op b1 b2 : Byte),
    decodeOpcode ext op b1 b2 = .unimpl op ↔
      (op.toNat % 16 = 0x3 ∨
       (op.toNat % 16 = 0xB ∧ op.toNat ≠ 0xCB ∧ op.toNat ≠ 0xDB) ∨
       op.toNat ∈ [0x02, 0x22, 0x42, 0x62, 0x82, 0xC2, 0xE2] ∨
       op.toNat ∈ [0x44, 0x54, 0xD4, 0xF4] ∨
       op.toNat ∈ [0x5C, 0xDC, 0xFC] ∨
       (ext.vendor = false ∧ (op.toNat % 16 = 0x7 ∨ op.toNat % 16 = 0xF)) ∨
       (ext.pause = false ∧ (op.toNat = 0xCB ∨ op.toNat = 0xDB)))) ∧
  ((List.range 256).filter (fun n => unimplOpcode ⟨true, true⟩ (BitVec.ofNat 8 n))).length = 44 ∧
  ((List.range 256).filter (fun n => unimplOpcode ⟨false, false⟩ (BitVec.ofNat 8 n))).length = 78

/-- The length of an instruction is 1, 2 or 3 and depends on the opcode byte and the toggles alone, never on its operand
bytes (R80, R108). -/
def Obligations.LengthIsFixedByTheOpcode : Prop :=
  ∀ (ext : Extensions) (op b1 b2 c1 c2 : Byte),
    (decodeOpcode ext op b1 b2).length = (decodeOpcode ext op c1 c2).length ∧
    1 ≤ (decodeOpcode ext op b1 b2).length ∧ (decodeOpcode ext op b1 b2).length ≤ 3

/-! ### Memory and operands (20_memory.md, 30_encoding.md) -/

/-- After any list of writes a read gives the byte last written at its address, and the byte from before the writes
where none was (R51, R65). -/
def Obligations.ReadGivesTheLastWrite : Prop :=
  ∀ (s : State) (ws : List (Word × Byte)) (a : Word),
    (ws.foldl (fun t w => t.write w.1 w.2) s).read a =
      ((ws.reverse.find? (fun w => w.1 == a)).map (·.2)).getD (s.read a)

/-- A word read takes its low byte from a and its high byte from a + 1, modulo 2^16 (R53, R55). -/
def Obligations.WordReadIsLittleEndian : Prop :=
  ∀ (s : State) (a b : Word), b.toNat = (a.toNat + 1) % 65536 →
    (s.readWord a).toNat = 256 * (s.read b).toNat + (s.read a).toNat

/-- The effective address of every mode, in numbers (R84, R89 to R97), and the operand read (R130). -/
def Obligations.EffectiveAddressOfEveryMode : Prop :=
  ∀ (s : State) (z : Byte) (w : Word),
    let pointer := fun (q : Byte) (hi : Word) =>
      hi.toNat = (if q.toNat = 255 then (if s.cfg.zpPtrWrap then 0 else 256) else q.toNat + 1) →
        (s.zpPtr q).toNat = 256 * (s.read hi).toNat + (s.read (BitVec.ofNat 16 q.toNat)).toNat
    (s.ea (.zp z)).toNat = z.toNat ∧
    (s.ea (.zpx z)).toNat = (z.toNat + s.x.toNat) % 256 ∧
    (s.ea (.zpy z)).toNat = (z.toNat + s.y.toNat) % 256 ∧
    s.ea (.abs w) = w ∧
    (s.ea (.absx w)).toNat = (w.toNat + s.x.toNat) % 65536 ∧
    (s.ea (.absy w)).toNat = (w.toNat + s.y.toNat) % 65536 ∧
    (∀ q hi, pointer q hi) ∧
    (∀ q : Byte, q.toNat = (z.toNat + s.x.toNat) % 256 → s.ea (.izx z) = s.zpPtr q) ∧
    (s.ea (.izy z)).toNat = ((s.zpPtr z).toNat + s.y.toNat) % 65536 ∧
    s.ea (.izp z) = s.zpPtr z ∧
    s.operand (.imm z) = z ∧
    ∀ m, s.operand (.mem m) = s.read (s.ea m)

/-! ### Loads, stores, transfers (40_load_store_transfer.md) -/

/-- LDA, LDX, LDY (R131 to R133), every operand form. -/
def Obligations.LoadsFillRegisterAndSetNZ : Prop :=
  ∀ (s : State) (o : Operand),
    (∃ p', exec (.lda o) s = .next { s with a := s.operand o, p := p' } ∧ WroteNZ (s.operand o) s.p p') ∧
    (∃ p', exec (.ldx o) s = .next { s with x := s.operand o, p := p' } ∧ WroteNZ (s.operand o) s.p p') ∧
    (∃ p', exec (.ldy o) s = .next { s with y := s.operand o, p := p' } ∧ WroteNZ (s.operand o) s.p p')

/-- STA, STX, STY, STZ (R134 to R137), every operand form: one byte at EA, nothing else. -/
def Obligations.StoresWriteOneByte : Prop :=
  ∀ (s : State) (m : Addr),
    (∃ t, exec (.sta m) s = .next t ∧ WroteByte s t (s.ea m) s.a) ∧
    (∃ t, exec (.stx m) s = .next t ∧ WroteByte s t (s.ea m) s.x) ∧
    (∃ t, exec (.sty m) s = .next t ∧ WroteByte s t (s.ea m) s.y) ∧
    (∃ t, exec (.stz m) s = .next t ∧ WroteByte s t (s.ea m) 0x00)

/-- TAX, TAY, TXA, TYA, TSX set N and Z (R138 to R142); TXS sets no flag (R143). Each is one byte, as encoded. -/
def Obligations.TransfersCopyRegister : Prop :=
  ∀ (s : State),
    (encode .tax = [0xAA] ∧ ∃ p', exec .tax s = .next { s with x := s.a, p := p' } ∧ WroteNZ s.a s.p p') ∧
    (encode .tay = [0xA8] ∧ ∃ p', exec .tay s = .next { s with y := s.a, p := p' } ∧ WroteNZ s.a s.p p') ∧
    (encode .txa = [0x8A] ∧ ∃ p', exec .txa s = .next { s with a := s.x, p := p' } ∧ WroteNZ s.x s.p p') ∧
    (encode .tya = [0x98] ∧ ∃ p', exec .tya s = .next { s with a := s.y, p := p' } ∧ WroteNZ s.y s.p p') ∧
    (encode .tsx = [0xBA] ∧ ∃ p', exec .tsx s = .next { s with x := s.sp, p := p' } ∧ WroteNZ s.sp s.p p') ∧
    encode .txs = [0x9A] ∧ exec .txs s = .next { s with sp := s.x }

/-! ### Arithmetic and logic (41_alu.md) -/

/-- Binary ADC (R160, R166): the 9-bit sum, and V exactly when the signed sum is outside -128 to 127. -/
def Obligations.AdcBinaryAddsWithSignedOverflow : Prop :=
  ∀ (s : State) (o : Operand), s.flag .d = false →
    let sum := s.a.toNat + (s.operand o).toNat + (s.flag .c).toNat
    let signed := s.a.toInt + (s.operand o).toInt + ((s.flag .c).toNat : Int)
    ∃ r p', exec (.adc o) s = .next { s with a := r, p := p' } ∧ r.toNat = sum % 256 ∧
      WroteCVNZ (decide (256 ≤ sum)) (decide (signed < -128 ∨ 127 < signed)) r s.p p'

/-- Binary SBC (R161, R167): the 9-bit difference, C as not-borrow, V the signed overflow of the subtraction. -/
def Obligations.SbcBinarySubtractsWithSignedOverflow : Prop :=
  ∀ (s : State) (o : Operand), s.flag .d = false →
    let diff : Int := (s.a.toNat : Int) - (s.operand o).toNat - (1 - ((s.flag .c).toNat : Int))
    let signed := s.a.toInt - (s.operand o).toInt - (1 - ((s.flag .c).toNat : Int))
    ∃ r p', exec (.sbc o) s = .next { s with a := r, p := p' } ∧ (r.toNat : Int) = diff % 256 ∧
      WroteCVNZ (decide (0 ≤ diff)) (decide (signed < -128 ∨ 127 < signed)) r s.p p'

/-- Decimal ADC on valid BCD operands (R163, R166): the decimal sum modulo 100, a valid BCD byte; V by the binary rule
applied to the final result. -/
def Obligations.AdcDecimalAddsBcd : Prop :=
  ∀ (s : State) (o : Operand), s.flag .d = true → isBcd s.a → isBcd (s.operand o) →
    let sum := decVal s.a + decVal (s.operand o) + (s.flag .c).toNat
    ∃ r p', exec (.adc o) s = .next { s with a := r, p := p' } ∧ isBcd r ∧ decVal r = sum % 100 ∧
      WroteCVNZ (decide (100 ≤ sum))
        (decide ((128 ≤ s.a.toNat ↔ 128 ≤ (s.operand o).toNat) ∧ ¬(128 ≤ r.toNat ↔ 128 ≤ s.a.toNat))) r s.p p'

/-- Decimal SBC on valid BCD operands (R164, R167): the decimal difference modulo 100, a valid BCD byte; C as not-borrow;
V by the binary subtract rule applied to the final result. -/
def Obligations.SbcDecimalSubtractsBcd : Prop :=
  ∀ (s : State) (o : Operand), s.flag .d = true → isBcd s.a → isBcd (s.operand o) →
    let diff : Int := (decVal s.a : Int) - decVal (s.operand o) - (1 - ((s.flag .c).toNat : Int))
    ∃ r p', exec (.sbc o) s = .next { s with a := r, p := p' } ∧ isBcd r ∧ (decVal r : Int) = diff % 100 ∧
      WroteCVNZ (decide (0 ≤ diff))
        (decide (¬(128 ≤ s.a.toNat ↔ 128 ≤ (s.operand o).toNat) ∧ ¬(128 ≤ r.toNat ↔ 128 ≤ s.a.toNat))) r s.p p'

/-- ADC and SBC in decimal mode with an invalid BCD operand (R165): the instruction completes, A, C, Z, N and V are the
five next free values (log 7), I, D, B and U and everything else are kept. -/
def Obligations.InvalidBcdDrawsFreeValues : Prop :=
  ∀ (s : State) (o : Operand), s.flag .d = true → ¬(isBcd s.a ∧ isBcd (s.operand o)) →
    ∃ p', (∀ f, getFlag f p' =
        match f with
        | .c => Config.freeBit (s.draws + 1)
        | .z => Config.freeBit (s.draws + 2)
        | .n => Config.freeBit (s.draws + 3)
        | .v => Config.freeBit (s.draws + 4)
        | .i | .d | .b | .u => getFlag f s.p) ∧
      exec (.adc o) s = .next { s with a := Config.freeByte s.draws, p := p', draws := s.draws + 5 } ∧
      exec (.sbc o) s = .next { s with a := Config.freeByte s.draws, p := p', draws := s.draws + 5 }

/-- Binary subtraction is addition of the complement, in all three outputs (R161). -/
def Obligations.SubtractIsAddOfComplement : Prop :=
  ∀ (a m : Byte) (c : Bool), subBin a m c = addBin a (m ^^^ 0xFF) c

/-- AND, ORA, EOR (R168 to R170), bit by bit. -/
def Obligations.LogicWorksBitByBit : Prop :=
  ∀ (s : State) (o : Operand),
    (∃ r p', exec (.and o) s = .next { s with a := r, p := p' } ∧ WroteNZ r s.p p' ∧
      ∀ k < 8, r.getLsbD k = (s.a.getLsbD k && (s.operand o).getLsbD k)) ∧
    (∃ r p', exec (.ora o) s = .next { s with a := r, p := p' } ∧ WroteNZ r s.p p' ∧
      ∀ k < 8, r.getLsbD k = (s.a.getLsbD k || (s.operand o).getLsbD k)) ∧
    (∃ r p', exec (.eor o) s = .next { s with a := r, p := p' } ∧ WroteNZ r s.p p' ∧
      ∀ k < 8, r.getLsbD k = (s.a.getLsbD k ^^ (s.operand o).getLsbD k))

/-- CMP, CPX, CPY (R171 to R174): C from the unsigned order, Z from equality, N bit 7 of the difference. -/
def Obligations.ComparesSetCZN : Prop :=
  ∀ (s : State) (o : Operand),
    let compared := fun (i : Instr) (r m : Byte) =>
      ∃ p', exec i s = .next { s with p := p' } ∧ ∀ f, getFlag f p' =
        match f with
        | .c => decide (m.toNat ≤ r.toNat)
        | .z => decide (r = m)
        | .n => decide (128 ≤ (256 + r.toNat - m.toNat) % 256)
        | .i | .d | .b | .u | .v => getFlag f s.p
    compared (.cmp o) s.a (s.operand o) ∧ compared (.cpx o) s.x (s.operand o) ∧ compared (.cpy o) s.y (s.operand o)

/-- BIT writes Z, N and V in its memory modes (R175) and Z alone in its immediate form (R176). -/
def Obligations.BitTestsOperand : Prop :=
  ∀ (s : State) (m : Addr) (v : Byte),
    (∃ p', exec (.bit m) s = .next { s with p := p' } ∧ ∀ f, getFlag f p' =
      match f with
      | .z => decide (s.a &&& s.read (s.ea m) = 0)
      | .n => (s.read (s.ea m)).getLsbD 7
      | .v => (s.read (s.ea m)).getLsbD 6
      | .c | .i | .d | .b | .u => getFlag f s.p) ∧
    (∃ p', exec (.bitImm v) s = .next { s with p := p' } ∧ WroteFlag .z (decide (s.a &&& v = 0)) s.p p')

/-- INC and DEC on memory (R177, R181): the byte at EA modulo 256, N and Z from it. -/
def Obligations.IncDecMemory : Prop :=
  ∀ (s : State) (m : Addr),
    let changed := fun (i : Instr) (n : Nat) =>
      ∃ t r p', exec i s = .next t ∧ r.toNat = n ∧ WroteNZ r s.p p' ∧ WroteByte { s with p := p' } t (s.ea m) r
    changed (.inc m) (((s.read (s.ea m)).toNat + 1) % 256) ∧
    changed (.dec m) (((s.read (s.ea m)).toNat + 255) % 256)

/-- INC A, INX, INY, DEC A, DEX, DEY (R178 to R180, R182 to R184): plus or minus one modulo 256; each is one byte, as
encoded. -/
def Obligations.IncDecRegisters : Prop :=
  ∀ (s : State),
    (encode .incA = [0x1A] ∧
      ∃ r p', exec .incA s = .next { s with a := r, p := p' } ∧ r.toNat = (s.a.toNat + 1) % 256 ∧ WroteNZ r s.p p') ∧
    (encode .inx = [0xE8] ∧
      ∃ r p', exec .inx s = .next { s with x := r, p := p' } ∧ r.toNat = (s.x.toNat + 1) % 256 ∧ WroteNZ r s.p p') ∧
    (encode .iny = [0xC8] ∧
      ∃ r p', exec .iny s = .next { s with y := r, p := p' } ∧ r.toNat = (s.y.toNat + 1) % 256 ∧ WroteNZ r s.p p') ∧
    (encode .decA = [0x3A] ∧
      ∃ r p', exec .decA s = .next { s with a := r, p := p' } ∧ r.toNat = (s.a.toNat + 255) % 256 ∧ WroteNZ r s.p p') ∧
    (encode .dex = [0xCA] ∧
      ∃ r p', exec .dex s = .next { s with x := r, p := p' } ∧ r.toNat = (s.x.toNat + 255) % 256 ∧ WroteNZ r s.p p') ∧
    (encode .dey = [0x88] ∧
      ∃ r p', exec .dey s = .next { s with y := r, p := p' } ∧ r.toNat = (s.y.toNat + 255) % 256 ∧ WroteNZ r s.p p')

/-- TSB and TRB (R185, R186): Z from `A AND M` before the write; the bits of A set or cleared in the byte. -/
def Obligations.TestAndSetOrResetBits : Prop :=
  ∀ (s : State) (m : Addr),
    let tested := fun (i : Instr) (g : Bool → Bool → Bool) =>
      ∃ t r p', exec i s = .next t ∧ WroteFlag .z (decide (s.a &&& s.read (s.ea m) = 0)) s.p p' ∧
        WroteByte { s with p := p' } t (s.ea m) r ∧
        ∀ k < 8, r.getLsbD k = g ((s.read (s.ea m)).getLsbD k) (s.a.getLsbD k)
    tested (.tsb m) (fun x a => x || a) ∧ tested (.trb m) (fun x a => x && !a)

/-! ### Shifts and rotates (42_shift_rotate.md) -/

/-- The accumulator forms of ASL, LSR, ROL, ROR (R200 to R204), in numbers. -/
def Obligations.ShiftsOnTheAccumulator : Prop :=
  ∀ (s : State),
    let shifted := fun (i : Instr) (n : Nat) (co : Bool) =>
      ∃ r p', exec i s = .next { s with a := r, p := p' } ∧ r.toNat = n ∧ WroteCNZ co r s.p p'
    let v := s.a.toNat
    let c := (s.flag .c).toNat
    shifted (.asl .acc) (2 * v % 256) (decide (128 ≤ v)) ∧
    shifted (.lsr .acc) (v / 2) (decide (v % 2 = 1)) ∧
    shifted (.rol .acc) ((2 * v + c) % 256) (decide (128 ≤ v)) ∧
    shifted (.ror .acc) (v / 2 + 128 * c) (decide (v % 2 = 1))

/-- The memory forms of ASL, LSR, ROL, ROR (R200 to R204): the byte at EA is read once and written once. -/
def Obligations.ShiftsOnMemory : Prop :=
  ∀ (s : State) (m : Addr),
    let shifted := fun (i : Instr) (n : Nat) (co : Bool) =>
      ∃ t r p', exec i s = .next t ∧ r.toNat = n ∧ WroteCNZ co r s.p p' ∧ WroteByte { s with p := p' } t (s.ea m) r
    let v := (s.read (s.ea m)).toNat
    let c := (s.flag .c).toNat
    shifted (.asl (.mem m)) (2 * v % 256) (decide (128 ≤ v)) ∧
    shifted (.lsr (.mem m)) (v / 2) (decide (v % 2 = 1)) ∧
    shifted (.rol (.mem m)) ((2 * v + c) % 256) (decide (128 ≤ v)) ∧
    shifted (.ror (.mem m)) (v / 2 + 128 * c) (decide (v % 2 = 1))

/-! ### Flags (43_flag_ops.md) -/

/-- CLC, SEC, CLI, SEI, CLD, SED, CLV (R220 to R226), their encodings and their one flag. -/
def Obligations.FlagInstructionsWriteOneFlag : Prop :=
  ∀ (s : State),
    let wrote := fun (i : Instr) (op : Byte) (g : Flag) (on : Bool) =>
      encode i = [op] ∧ ∃ p', exec i s = .next { s with p := p' } ∧ WroteFlag g on s.p p'
    wrote .clc 0x18 .c false ∧ wrote .sec 0x38 .c true ∧ wrote .cli 0x58 .i false ∧ wrote .sei 0x78 .i true ∧
    wrote .cld 0xD8 .d false ∧ wrote .sed 0xF8 .d true ∧ wrote .clv 0xB8 .v false

/-! ### Stack (44_stack.md) -/

/-- PHA, PHP, PHX, PHY (R240, R242 to R245): the byte goes to `0x0100 OR S`, then S is decremented; PHP pushes B and U
as 1. -/
def Obligations.PushesWriteThenDecrement : Prop :=
  ∀ (s : State),
    let pushed := fun (i : Instr) (op v : Byte) =>
      encode i = [op] ∧ ∃ t sp', exec i s = .next t ∧ sp'.toNat = (s.sp.toNat + 255) % 256 ∧
        t = { s with mem := t.mem, sp := sp' } ∧ ∀ b, t.read b = if b.toNat = 256 + s.sp.toNat then v else s.read b
    pushed .pha 0x48 s.a ∧ pushed .phx 0xDA s.x ∧ pushed .phy 0x5A s.y ∧
    ∃ v, (∀ f, getFlag f v = (decide (f = .b ∨ f = .u) || getFlag f s.p)) ∧ pushed .php 0x08 v

/-- PLA, PLX, PLY set N and Z, PLP loads P with B and U as 1 (R241, R246 to R249): S is incremented, then the byte at
`0x0100 OR S` is read. -/
def Obligations.PullsIncrementThenRead : Prop :=
  ∀ (s : State) (sp' : Byte) (b : Word),
    sp'.toNat = (s.sp.toNat + 1) % 256 → b.toNat = 256 + sp'.toNat →
    (encode .pla = [0x68] ∧ ∃ p', exec .pla s = .next { s with a := s.read b, sp := sp', p := p' } ∧ WroteNZ (s.read b) s.p p') ∧
    (encode .plx = [0xFA] ∧ ∃ p', exec .plx s = .next { s with x := s.read b, sp := sp', p := p' } ∧ WroteNZ (s.read b) s.p p') ∧
    (encode .ply = [0x7A] ∧ ∃ p', exec .ply s = .next { s with y := s.read b, sp := sp', p := p' } ∧ WroteNZ (s.read b) s.p p') ∧
    encode .plp = [0x28] ∧ ∃ p', exec .plp s = .next { s with sp := sp', p := p' } ∧
      ∀ f, getFlag f p' = (decide (f = .b ∨ f = .u) || getFlag f (s.read b))

/-- Pushing N bytes and pulling N bytes, for N up to 256, restores S and gives the bytes back in reverse order; every
byte outside page 1 and every other piece of state is as before (R250). -/
def Obligations.PushesThenPullsReverse : Prop :=
  ∀ (s : State) (l : List Byte), l.length ≤ 256 →
    let t := (s.pushAll l).pullMany l.length
    t.1 = l.reverse ∧ t.2 = { s with mem := t.2.mem } ∧
      ∀ b : Word, b.toNat / 256 ≠ 1 → t.2.read b = s.read b

/-! ### Control transfer (45_control.md) -/

/-- The nine branches (R260 to R269): pc moves by the signed offset from the byte after the instruction when the
condition holds, modulo 2^16; nothing else changes. -/
def Obligations.BranchesMoveBySignedOffset : Prop :=
  ∀ (s : State) (r : Byte),
    let branches := fun (i : Instr) (op : Byte) (cond : Bool) =>
      encode i = [op, r] ∧ ∃ q, exec i s = .next { s with pc := q } ∧
        (q.toNat : Int) = if cond then ((s.pc.toNat : Int) + r.toInt) % 65536 else (s.pc.toNat : Int)
    branches (.bpl r) 0x10 (!s.flag .n) ∧ branches (.bmi r) 0x30 (s.flag .n) ∧
    branches (.bvc r) 0x50 (!s.flag .v) ∧ branches (.bvs r) 0x70 (s.flag .v) ∧
    branches (.bcc r) 0x90 (!s.flag .c) ∧ branches (.bcs r) 0xB0 (s.flag .c) ∧
    branches (.bne r) 0xD0 (!s.flag .z) ∧ branches (.beq r) 0xF0 (s.flag .z) ∧
    branches (.bra r) 0x80 true

/-- JMP in its three forms (R270 to R272; R98, R99): the operand, or the word it points at, without the page-wrap defect.
NOP (R277) changes nothing beyond the pc its fetch has moved. -/
def Obligations.JumpsLoadPc : Prop :=
  ∀ (s : State) (w : Word),
    (encode (.jmp w) = [0x4C, loByte w, hiByte w] ∧ encode (.jmpInd w) = [0x6C, loByte w, hiByte w] ∧
      encode (.jmpIax w) = [0x7C, loByte w, hiByte w] ∧ encode .nop = [0xEA]) ∧
    exec (.jmp w) s = .next { s with pc := w } ∧
    (∀ hi : Word, hi.toNat = (w.toNat + 1) % 65536 →
      ∃ q, exec (.jmpInd w) s = .next { s with pc := q } ∧ q.toNat = 256 * (s.read hi).toNat + (s.read w).toNat) ∧
    (∀ lo hi : Word, lo.toNat = (w.toNat + s.x.toNat) % 65536 → hi.toNat = (lo.toNat + 1) % 65536 →
      ∃ q, exec (.jmpIax w) s = .next { s with pc := q } ∧ q.toNat = 256 * (s.read hi).toNat + (s.read lo).toNat) ∧
    exec .nop s = .next s

/-- JSR (R273): the address of its last byte is pushed, high byte first, and pc is the operand. -/
def Obligations.JsrPushesReturnAddress : Prop :=
  ∀ (s : State) (w : Word),
    let ret := (s.pc.toNat + 65535) % 65536
    encode (.jsr w) = [0x20, loByte w, hiByte w] ∧
    ∃ t, exec (.jsr w) s = .next t ∧ t = { s with mem := t.mem, sp := s.sp - 2, pc := w } ∧
      ∀ b, t.read b =
        if b.toNat = 256 + s.sp.toNat then BitVec.ofNat 8 (ret / 256)
        else if b.toNat = 256 + (s.sp - 1).toNat then BitVec.ofNat 8 ret
        else s.read b

/-- RTS (R274): the pulled word plus one, S up by two. -/
def Obligations.RtsPullsReturnAddress : Prop :=
  ∀ (s : State) (b1 b2 : Word),
    b1.toNat = 256 + (s.sp + 1).toNat → b2.toNat = 256 + (s.sp + 2).toNat →
    encode .rts = [0x60] ∧
    ∃ q, exec .rts s = .next { s with sp := s.sp + 2, pc := q } ∧
      q.toNat = (256 * (s.read b2).toNat + (s.read b1).toNat + 1) % 65536

/-- RTI (R275): P with B and U as 1, then pc, with no increment; S up by three. -/
def Obligations.RtiRestoresPAndPc : Prop :=
  ∀ (s : State) (b1 b2 b3 : Word),
    b1.toNat = 256 + (s.sp + 1).toNat → b2.toNat = 256 + (s.sp + 2).toNat → b3.toNat = 256 + (s.sp + 3).toNat →
    ∃ p' q, exec .rti s = .next { s with sp := s.sp + 3, p := p', pc := q } ∧
      q.toNat = 256 * (s.read b3).toNat + (s.read b2).toNat ∧
      ∀ f, getFlag f p' = (decide (f = .b ∨ f = .u) || getFlag f (s.read b1))

/-- BRK (R276): the interrupt frame with B and U pushed as 1, I set, D cleared, pc from 0xFFFE; `s.pc` is the byte after
the signature byte. -/
def Obligations.BrkEntersThroughTheIrqVector : Prop :=
  ∀ (s : State) (sig : Byte),
    ∃ t pushed, exec (.brk sig) s = .next t ∧ EnteredInterrupt s t pushed true 0xFFFE ∧
      ∀ f, getFlag f pushed = (decide (f = .b ∨ f = .u) || getFlag f s.p)

/-- An RTS at any address after a JSR returns to the byte after the JSR and restores S; only memory differs. -/
def Obligations.RtsReturnsFromJsr : Prop :=
  ∀ (s : State) (w q : Word),
    ∃ t u, exec (.jsr w) s = .next t ∧ exec .rts (t.setPc q) = .next u ∧ u = { s with mem := u.mem }

/-- An RTI at any address after IRQ service resumes at the interrupted pc, with S and P as before the service (so I as it
was); only memory differs (R356, R357). -/
def Obligations.RtiResumesAfterIrq : Prop :=
  ∀ (s : State) (q : Word), s.storedBU →
    ∃ u, exec .rti (s.irqService.setPc q) = .next u ∧ u = { s with mem := u.mem }

/-! ### Vendor, pause, unimplemented (46_vendor_bits.md, 47_pause_unimplemented.md) -/

/-- RMB0 to RMB7 and SMB0 to SMB7 (R301, R302): one bit of one zero-page byte, no flag. -/
def Obligations.VendorBitWrites : Prop :=
  ∀ (s : State) (z : Byte) (a : Word), a.toNat = z.toNat →
    let wrote := fun (e : Nat × Instr) (base : Nat) (on : Bool) =>
      encode e.2 = [BitVec.ofNat 8 (base + 16 * e.1), z] ∧ ∃ t r, exec e.2 s = .next t ∧ WroteByte s t a r ∧
        ∀ k < 8, r.getLsbD k = if k = e.1 then on else (s.read a).getLsbD k
    (∀ e ∈ [(0, Instr.rmb0 z), (1, .rmb1 z), (2, .rmb2 z), (3, .rmb3 z),
            (4, .rmb4 z), (5, .rmb5 z), (6, .rmb6 z), (7, .rmb7 z)], wrote e 0x07 false) ∧
    (∀ e ∈ [(0, Instr.smb0 z), (1, .smb1 z), (2, .smb2 z), (3, .smb3 z),
            (4, .smb4 z), (5, .smb5 z), (6, .smb6 z), (7, .smb7 z)], wrote e 0x87 true)

/-- BBR0 to BBR7 and BBS0 to BBS7 (R303, R304): pc moves by the signed offset when the tested bit is 0 (BBR) or 1 (BBS). -/
def Obligations.VendorBitBranches : Prop :=
  ∀ (s : State) (z r : Byte) (a : Word), a.toNat = z.toNat →
    let branches := fun (e : Nat × Instr) (base : Nat) (on : Bool) =>
      encode e.2 = [BitVec.ofNat 8 (base + 16 * e.1), z, r] ∧ ∃ q, exec e.2 s = .next { s with pc := q } ∧
        (q.toNat : Int) =
          if (s.read a).getLsbD e.1 = on then ((s.pc.toNat : Int) + r.toInt) % 65536 else (s.pc.toNat : Int)
    (∀ e ∈ [(0, Instr.bbr0 z r), (1, .bbr1 z r), (2, .bbr2 z r), (3, .bbr3 z r),
            (4, .bbr4 z r), (5, .bbr5 z r), (6, .bbr6 z r), (7, .bbr7 z r)], branches e 0x0F false) ∧
    (∀ e ∈ [(0, Instr.bbs0 z r), (1, .bbs1 z r), (2, .bbs2 z r), (3, .bbs3 z r),
            (4, .bbs4 z r), (5, .bbs5 z r), (6, .bbs6 z r), (7, .bbs7 z r)], branches e 0x8F true)

/-- WAI and STP (R321 to R323): the engine is paused and nothing else changes. -/
def Obligations.PauseOpcodesSuspend : Prop :=
  ∀ (s : State), exec .wai s = .next { s with engine := .paused } ∧ exec .stp s = .next { s with engine := .paused }

/-- The unimplemented path (R324): under Fail the instruction answers a next state in which the engine is Faulted, the fault
record is the opcode's own address and byte (R341) and nothing else changes (that the fault is an engine state and no
outcome of a step is the model's choice, log 12); under Nop only pc changes, to 1 to 4 bytes past the opcode's address
(P_UNIMPL_LEN, log 6). -/
def Obligations.UnimplementedPathFaultsOrSkips : Prop :=
  ∀ (s : State) (op : Byte) (start : Word), s.pc.toNat = (start.toNat + 1) % 65536 →
    (s.cfg.unimplPolicy = .fail →
      ∃ t, exec (.unimpl op) s = .next t ∧ t = { s with engine := .faulted start op } ∧
        t.faultRecord = some (.unimplementedInstruction start op)) ∧
    (s.cfg.unimplPolicy = .nop →
      ∃ q n, exec (.unimpl op) s = .next { s with pc := q } ∧ 1 ≤ n ∧ n ≤ 4 ∧ n = unimplLength op ∧
        q.toNat = (start.toNat + n) % 65536)

/-! ### Interrupts, engine, host (60_exceptions.md, 70_reset_and_hazards.md) -/

/-- Reset service (R352): both latches cleared, pc from 0xFFFC, I set and D cleared only under P_RESET_MASKS, nothing
pushed. -/
def Obligations.ResetServiceLoadsVector : Prop :=
  ∀ (s : State),
    ∃ p', s.resetService =
        { s with resetPending := false, nmiPending := false, p := p', pc := s.readWord 0xFFFC } ∧
      if s.cfg.resetMasks then WroteMask s.p p' else p' = s.p

/-- NMI service (R353): its latch cleared, the frame pushed with B = P_NMI_PUSH_B, pc from 0xFFFA, I set and D cleared
only under P_NMI_MASKS. -/
def Obligations.NmiServiceEntersHandler : Prop :=
  ∀ (s : State),
    ∃ pushed, EnteredInterrupt { s with nmiPending := false } s.nmiService pushed s.cfg.nmiMasks 0xFFFA ∧
      ∀ f, getFlag f pushed = if f = .b then s.cfg.nmiPushB else getFlag f s.p

/-- IRQ service (R354): the frame pushed with B = 0, I set, D cleared, pc from 0xFFFE; the line level is kept. -/
def Obligations.IrqServiceEntersHandler : Prop :=
  ∀ (s : State),
    ∃ pushed, EnteredInterrupt s s.irqService pushed true 0xFFFE ∧
      ∀ f, getFlag f pushed = if f = .b then false else getFlag f s.p

/-- Attention (R36) and the selection of `attend` (R351): reset before NMI before IRQ, exactly one service. -/
def Obligations.AttendServicesTheHighest : Prop :=
  ∀ (s : State),
    (s.attention = true ↔ s.resetPending = true ∨ s.nmiPending = true ∨ (s.irqAsserted = true ∧ s.flag .i = false)) ∧
    (s.resetPending = true → s.attend = s.resetService) ∧
    (s.resetPending = false → s.nmiPending = true → s.attend = s.nmiService) ∧
    (s.resetPending = false → s.nmiPending = false → s.irqAsserted = true → s.flag .i = false →
      s.attend = s.irqService)

/-- An iteration with nothing to service runs the decoded instruction, with pc moved past its bytes (R82, R350). -/
def Obligations.StepRunsDecodedInstruction : Prop :=
  ∀ (s : State) (i : Instr) (rest : List Byte),
    s.canRun → s.attention = false → decode s.cfg.ext s.bytesAtPc = .ok i rest →
    step s = exec i (s.turnTaken.setPc (s.pc + BitVec.ofNat 16 i.length))

/-- An iteration with attention services exactly one interrupt and then runs the instruction at the pc the service left
(R350, R351). -/
def Obligations.StepServicesThenRuns : Prop :=
  ∀ (s t : State) (i : Instr) (rest : List Byte),
    s.canRun → s.attention = true → t = s.turnTaken.attend → decode t.cfg.ext t.bytesAtPc = .ok i rest →
    step s = exec i (t.setPc (t.pc + BitVec.ofNat 16 i.length))

/-- The core's turn where the engine has no step leaves the machine as it is (R347; that such a turn is a step that changes
nothing is the model's choice, log 11): in Off, in WaitingForReset and Paused without their guard, in Running with the
reset line low, and always in Faulted (R342). -/
def Obligations.WaitingEnginesDoNotStep : Prop :=
  ∀ (s : State), s.coreTurn →
    (s.engine = .off → step s = .next s.turnTaken) ∧
    (s.engine = .waitingForReset → ¬(s.resetPending = true ∧ s.resetLineHigh = true) → step s = .next s.turnTaken) ∧
    (s.engine = .running → s.resetLineHigh = false → step s = .next s.turnTaken) ∧
    (s.engine = .paused → ¬(s.resetLineHigh = true ∧ s.attention = true) → step s = .next s.turnTaken) ∧
    ∀ addr op, s.engine = .faulted addr op → step s = .next s.turnTaken

/-- A latched reset with the line high starts the loop, and attention with the reset line high wakes a paused core; the
turn is then that of a Running core (R321, R347, R349, log 13). -/
def Obligations.WaitingEnginesStartRunning : Prop :=
  ∀ (s : State), s.coreTurn → s.resetLineHigh = true →
    (s.engine = .waitingForReset → s.resetPending = true → step s = step { s with engine := .running }) ∧
    (s.engine = .paused → s.attention = true → step s = step { s with engine := .running })

/-- The six line operations (R345): levels, the rising edge of reset, the falling edge of NMI; in every engine state. The
schedule they come from and the reply are the model's own fields (logs 8, 9). -/
def Obligations.LineOperationsLatchEdges : Prop :=
  ∀ (s : State) (l : List Turn),
    let after := fun (op : HostOp) (t : State) => s.schedule = .host op :: l → step s = .next { t with schedule := l, reply := .done }
    after .resetLow { s with resetLineHigh := false } ∧
    (s.resetLineHigh = false → after .resetHigh { s with resetLineHigh := true, resetPending := true }) ∧
    (s.resetLineHigh = true → after .resetHigh s) ∧
    after .nmiHigh { s with nmiLineHigh := true } ∧
    (s.nmiLineHigh = true → after .nmiLow { s with nmiLineHigh := false, nmiPending := true }) ∧
    (s.nmiLineHigh = false → after .nmiLow s) ∧
    after .irqLow { s with irqAsserted := true } ∧
    after .irqHigh { s with irqAsserted := false }

/-- `turn_on` and `turn_off` (R343, R348, R358): their effect where they are allowed, MISUSE with no effect elsewhere. The
schedule they come from and the reply are the model's own fields (logs 8, 9). -/
def Obligations.LifecycleCalls : Prop :=
  ∀ (s : State) (l : List Turn),
    (s.schedule = .host .turnOn :: l →
      (s.engine = .off → ∃ p', step s = .next { s with schedule := l, reply := .done, engine := .waitingForReset, p := p' } ∧
        ∀ f, getFlag f p' = (decide (f = .b ∨ f = .u) || getFlag f s.p)) ∧
      (s.engine ≠ .off → step s = .next { s with schedule := l, reply := .misuse })) ∧
    (s.schedule = .host .turnOff :: l →
      (s.engine = .off → step s = .next { s with schedule := l, reply := .misuse }) ∧
      (s.engine ≠ .off → step s = .next { s with
        schedule := l, reply := .done, engine := .off, a := 0, x := 0, y := 0, sp := 0, p := 0, pc := 0,
        resetPending := false, nmiPending := false, irqAsserted := false, nmiLineHigh := false,
        resetLineHigh := false }))

/-- Configuration calls act in Off alone, the clock period in every state (R361, R413); the host reads and writes memory
in Off, WaitingForReset and Faulted alone (R361). That a call which is not allowed is answered `refused` and changes
nothing is the model's choice (U19, U20, log 9). -/
def Obligations.HostConfiguresAndAccessesMemory : Prop :=
  ∀ (s : State) (l : List Turn) (op : HostOp), s.schedule = .host op :: l →
    (∀ c : Settings,
      ((op = .failOnUnimplemented ∧ c = { s.cfg with unimplPolicy := .fail }) ∨
       (op = .nopOnUnimplemented ∧ c = { s.cfg with unimplPolicy := .nop }) ∨
       (∃ b, op = .vendorExtensions b ∧ c = { s.cfg with vendorExt := b }) ∨
       (∃ b, op = .pauseExtensions b ∧ c = { s.cfg with pauseExt := b })) →
      (s.engine = .off → step s = .next { s with schedule := l, reply := .done, cfg := c }) ∧
      (s.engine ≠ .off → step s = .next { s with schedule := l, reply := .refused })) ∧
    (∀ d, op = .changePeriod d →
      step s = .next { s with schedule := l, reply := .done, cfg := { s.cfg with clockPeriod := d } }) ∧
    (∀ a v, op = .memWrite a v →
      (s.engine = .running ∨ s.engine = .paused → step s = .next { s with schedule := l, reply := .refused }) ∧
      (s.engine ≠ .running → s.engine ≠ .paused →
        ∃ t, step s = .next t ∧ WroteByte { s with schedule := l, reply := .done } t a v)) ∧
    (∀ a, op = .memRead a →
      (s.engine = .running ∨ s.engine = .paused → step s = .next { s with schedule := l, reply := .refused }) ∧
      (s.engine ≠ .running → s.engine ≠ .paused →
        step s = .next { s with schedule := l, reply := .byte (s.read a) }))

/-- Construction (R41, R400) and the boot of R401: after `turn_on`, `reset_low` and `reset_high` the engine waits with
P = 0x30 and the reset latched, and entering the loop and servicing the reset gives State.reset. The memory that lists
nothing and P_RESET_MASKS = false are the model's choices (logs 2, 3). -/
def Obligations.BootFromConstructionGivesReset : Prop :=
  (State.powerOn.engine = .off ∧ State.powerOn.a = 0 ∧ State.powerOn.x = 0 ∧ State.powerOn.y = 0 ∧
    State.powerOn.sp = 0 ∧ State.powerOn.pc = 0 ∧ State.powerOn.p = 0x20 ∧ State.powerOn.resetPending = false ∧
    State.powerOn.nmiPending = false ∧ State.powerOn.irqAsserted = false ∧ State.powerOn.nmiLineHigh = false ∧
    State.powerOn.resetLineHigh = false) ∧
  ∃ t, Host.Core.run Sys2Proof.core 3
      { State.powerOn with schedule := [.host .turnOn, .host .resetLow, .host .resetHigh] } = .next t ∧
    t.engine = .waitingForReset ∧ t.p = 0x30 ∧ t.resetPending = true ∧ t.resetLineHigh = true ∧
    { t.resetService with engine := .running, reply := .none } = State.reset

/-- The invariant holds at construction and at reset (R41, R401). -/
def Obligations.ResetMeetsInvariant : Prop := State.powerOn.Inv ∧ State.reset.Inv

/-- Every step, the core's or the host's, keeps the invariant: the memory's canonical form; B and U stored as 1 while the
engine is on (R26, R27, C5); the values of Off and WaitingForReset (R41, R404); Paused only with the pause extension
(R320); Faulted only on the unimplemented path under Fail, with pc one past the recorded address (R324, R342). -/
def Obligations.EveryStepKeepsInvariant : Prop :=
  ∀ (s t : State), s.Inv → step s = .next t → t.Inv

/-- Every instruction completes (R325, R340, R356), and none writes a latch or a line (R35), the configuration (R38) or the
schedule and the reply, which are the model's own fields (logs 8, 9): only the pause opcodes and the unimplemented path
write the engine state (R321 to R324, R347). That the unimplemented path under Fail completes, with the engine Faulted,
is the model's choice (log 12). -/
def Obligations.InstructionsLeaveLatchesAndHostSide : Prop :=
  ∀ (i : Instr) (s : State), ∃ t, exec i s = .next t ∧ s.sameHostSide t ∧
    (t.engine = s.engine ∨ i = .wai ∨ i = .stp ∨ ∃ op, i = .unimpl op)

/-- A flag is written by no instruction outside its writers (R26 to R33). -/
def Obligations.FlagsHaveOnlyTheirWriters : Prop :=
  ∀ (f : Flag) (i : Instr) (s t : State),
    exec i s = .next t → mayWriteFlag f i = false → t.flag f = s.flag f

/-- A, X, Y and S are written by no instruction outside their writers (R20 to R23). -/
def Obligations.RegistersHaveOnlyTheirWriters : Prop :=
  ∀ (i : Instr) (s t : State), exec i s = .next t →
    (mayWriteA i = false → t.a = s.a) ∧ (mayWriteX i = false → t.x = s.x) ∧
    (mayWriteY i = false → t.y = s.y) ∧ (mayMoveS i = false → t.sp = s.sp)

/-- A Faulted core (R342, R347): every step but the host's `turn_off` leaves the engine Faulted with its record, and A, X, Y,
S, P and pc as the fault left them; no turn of the core changes anything but the schedule. `turn_off` makes it Off. That
a turn with no step is a step that changes nothing is the model's choice (log 11). -/
def Obligations.FaultedIsLeftByTurnOffAlone : Prop :=
  ∀ (s : State) (addr : Word) (op : Byte), s.engine = .faulted addr op →
    ∃ t, step s = .next t ∧
      ((∃ l, s.schedule = .host .turnOff :: l) → t.engine = .off) ∧
      ((¬∃ l, s.schedule = .host .turnOff :: l) →
        t.engine = .faulted addr op ∧ t.faultRecord = some (.unimplementedInstruction addr op) ∧
        t.a = s.a ∧ t.x = s.x ∧ t.y = s.y ∧ t.sp = s.sp ∧ t.p = s.p ∧ t.pc = s.pc) ∧
      (s.coreTurn → t = s.turnTaken)

/-- No state stops the machine: every step, in every engine state and for every turn, gives a next state. A core with no
step waits for the host (R347, logs 11, 12). -/
def Obligations.EveryStepGivesANextState : Prop := ∀ s : State, ∃ t, step s = .next t
end

