-- ==== Sys2Proof/Laws/Flags.lean ====
section
/-! SUPPORT. What every flag computation does to every flag of P. -/

namespace Sys2Proof.Machine

theorem flagBit_lt (f : Flag) : flagBit f < 8 := by cases f <;> decide

theorem flagBit_inj (f g : Flag) : flagBit f = flagBit g ↔ f = g := by cases f <;> cases g <;> decide

/-- Everything a flag write does. -/
theorem getFlag_setFlag (f g : Flag) (on : Bool) (p : Byte) :
    getFlag f (setFlag g on p) = if f = g then on else getFlag f p := by
  have hf := flagBit_lt f
  have key : (1#8 <<< flagBit g).getLsbD (flagBit f) = decide (f = g) := by cases f <;> cases g <;> decide
  unfold getFlag setFlag
  split
  · rename_i h
    rw [BitVec.getLsbD_or, key, h]
    by_cases e : f = g <;> simp [e]
  · rename_i h
    rw [BitVec.getLsbD_and, BitVec.getLsbD_not, key]
    by_cases e : f = g
    · simp [e, h]
    · simp [e, hf]

/-- P is its eight flags. -/
theorem byte_eq_of_flags {p q : Byte} (h : ∀ f, getFlag f p = getFlag f q) : p = q := by
  apply BitVec.eq_of_getLsbD_eq
  intro i hi
  have := h (match i with | 0 => .c | 1 => .z | 2 => .i | 3 => .d | 4 => .b | 5 => .u | 6 => .v | _ => .n)
  match i, hi with
  | 0, _ => exact this
  | 1, _ => exact this
  | 2, _ => exact this
  | 3, _ => exact this
  | 4, _ => exact this
  | 5, _ => exact this
  | 6, _ => exact this
  | 7, _ => exact this

theorem byte_msb (v : Byte) : v.msb = decide (128 ≤ v.toNat) := by
  rw [BitVec.msb_eq_decide]

/-- `setNZ` writes Z and N and nothing else. -/
theorem setNZ_wrote (v p : Byte) : WroteNZ v p (setNZ v p) := by
  intro f
  cases f <;> simp [setNZ, getFlag_setFlag, byte_msb]
  rfl

theorem setCNZ_wrote (c : Bool) (v p : Byte) : WroteCNZ c v p (setCNZ c v p) := by
  intro f
  cases f <;> simp [setCNZ, setNZ, getFlag_setFlag, byte_msb]
  rfl

theorem setCVNZ_wrote (c o : Bool) (v p : Byte) : WroteCVNZ c o v p (setCVNZ c o v p) := by
  intro f
  cases f <;> simp [setCVNZ, setNZ, getFlag_setFlag, byte_msb]
  rfl

theorem setFlag_wrote (g : Flag) (on : Bool) (p : Byte) : WroteFlag g on p (setFlag g on p) :=
  fun f => getFlag_setFlag f g on p

theorem maskInterrupts_wrote (p : Byte) : WroteMask p (maskInterrupts p) := by
  intro f
  cases f <;> simp [maskInterrupts, getFlag_setFlag]

theorem getFlag_withBU (f : Flag) (p : Byte) :
    getFlag f (withBU p) = (getFlag f p || decide (f = .b ∨ f = .u)) := by
  have key : (0x30 : Byte).getLsbD (flagBit f) = decide (f = .b ∨ f = .u) := by cases f <;> decide
  simp only [getFlag, withBU, BitVec.getLsbD_or, key]

theorem getFlag_irqPushedP (f : Flag) (p : Byte) :
    getFlag f (irqPushedP p) = if f = .b then false else getFlag f p := by
  have key : (0xEF : Byte).getLsbD (flagBit f) = !decide (f = .b) := by cases f <;> decide
  simp only [getFlag, irqPushedP, BitVec.getLsbD_and, key]
  by_cases h : f = .b <;> simp [h]

theorem getFlag_nmiPushedP (f : Flag) (b : Bool) (p : Byte) :
    getFlag f (nmiPushedP b p) = if f = .b then b else getFlag f p := by
  have key : (0xEF : Byte).getLsbD (flagBit f) = !decide (f = .b) := by cases f <;> decide
  have key2 : (if b then 0x10 else 0x00 : Byte).getLsbD (flagBit f) = (b && decide (f = .b)) := by
    cases b <;> cases f <;> decide
  simp only [getFlag, nmiPushedP, BitVec.getLsbD_or, BitVec.getLsbD_and, key, key2]
  by_cases h : f = .b <;> simp [h]

/-- The status byte IRQ service pushes comes back as P when it is pulled, if B and U were stored as 1. -/
theorem withBU_irqPushedP {p : Byte} (hb : getFlag .b p = true) (hu : getFlag .u p = true) :
    withBU (irqPushedP p) = p := by
  apply byte_eq_of_flags
  intro f
  rw [getFlag_withBU, getFlag_irqPushedP]
  cases f <;> simp [hb, hu]

end Sys2Proof.Machine
end

