-- ==== Sys2Proof/Laws/State.lean ====
section
/-! SUPPORT. One lemma per field per update of the state, so that no proof unfolds a record update. -/

namespace Sys2Proof.Machine

variable (s : State)

@[simp] theorem setA_a (v : Byte) : (s.setA v).a = v := rfl
@[simp] theorem setA_x (v : Byte) : (s.setA v).x = s.x := rfl
@[simp] theorem setA_y (v : Byte) : (s.setA v).y = s.y := rfl
@[simp] theorem setA_sp (v : Byte) : (s.setA v).sp = s.sp := rfl
@[simp] theorem setA_p (v : Byte) : (s.setA v).p = s.p := rfl
@[simp] theorem setA_pc (v : Byte) : (s.setA v).pc = s.pc := rfl
@[simp] theorem setA_resetPending (v : Byte) : (s.setA v).resetPending = s.resetPending := rfl
@[simp] theorem setA_nmiPending (v : Byte) : (s.setA v).nmiPending = s.nmiPending := rfl
@[simp] theorem setA_irqAsserted (v : Byte) : (s.setA v).irqAsserted = s.irqAsserted := rfl
@[simp] theorem setA_nmiLineHigh (v : Byte) : (s.setA v).nmiLineHigh = s.nmiLineHigh := rfl
@[simp] theorem setA_resetLineHigh (v : Byte) : (s.setA v).resetLineHigh = s.resetLineHigh := rfl
@[simp] theorem setA_engine (v : Byte) : (s.setA v).engine = s.engine := rfl
@[simp] theorem setA_cfg (v : Byte) : (s.setA v).cfg = s.cfg := rfl
@[simp] theorem setA_mem (v : Byte) : (s.setA v).mem = s.mem := rfl
@[simp] theorem setA_draws (v : Byte) : (s.setA v).draws = s.draws := rfl
@[simp] theorem setA_schedule (v : Byte) : (s.setA v).schedule = s.schedule := rfl
@[simp] theorem setA_reply (v : Byte) : (s.setA v).reply = s.reply := rfl

@[simp] theorem setX_a (v : Byte) : (s.setX v).a = s.a := rfl
@[simp] theorem setX_x (v : Byte) : (s.setX v).x = v := rfl
@[simp] theorem setX_y (v : Byte) : (s.setX v).y = s.y := rfl
@[simp] theorem setX_sp (v : Byte) : (s.setX v).sp = s.sp := rfl
@[simp] theorem setX_p (v : Byte) : (s.setX v).p = s.p := rfl
@[simp] theorem setX_pc (v : Byte) : (s.setX v).pc = s.pc := rfl
@[simp] theorem setX_resetPending (v : Byte) : (s.setX v).resetPending = s.resetPending := rfl
@[simp] theorem setX_nmiPending (v : Byte) : (s.setX v).nmiPending = s.nmiPending := rfl
@[simp] theorem setX_irqAsserted (v : Byte) : (s.setX v).irqAsserted = s.irqAsserted := rfl
@[simp] theorem setX_nmiLineHigh (v : Byte) : (s.setX v).nmiLineHigh = s.nmiLineHigh := rfl
@[simp] theorem setX_resetLineHigh (v : Byte) : (s.setX v).resetLineHigh = s.resetLineHigh := rfl
@[simp] theorem setX_engine (v : Byte) : (s.setX v).engine = s.engine := rfl
@[simp] theorem setX_cfg (v : Byte) : (s.setX v).cfg = s.cfg := rfl
@[simp] theorem setX_mem (v : Byte) : (s.setX v).mem = s.mem := rfl
@[simp] theorem setX_draws (v : Byte) : (s.setX v).draws = s.draws := rfl
@[simp] theorem setX_schedule (v : Byte) : (s.setX v).schedule = s.schedule := rfl
@[simp] theorem setX_reply (v : Byte) : (s.setX v).reply = s.reply := rfl

@[simp] theorem setY_a (v : Byte) : (s.setY v).a = s.a := rfl
@[simp] theorem setY_x (v : Byte) : (s.setY v).x = s.x := rfl
@[simp] theorem setY_y (v : Byte) : (s.setY v).y = v := rfl
@[simp] theorem setY_sp (v : Byte) : (s.setY v).sp = s.sp := rfl
@[simp] theorem setY_p (v : Byte) : (s.setY v).p = s.p := rfl
@[simp] theorem setY_pc (v : Byte) : (s.setY v).pc = s.pc := rfl
@[simp] theorem setY_resetPending (v : Byte) : (s.setY v).resetPending = s.resetPending := rfl
@[simp] theorem setY_nmiPending (v : Byte) : (s.setY v).nmiPending = s.nmiPending := rfl
@[simp] theorem setY_irqAsserted (v : Byte) : (s.setY v).irqAsserted = s.irqAsserted := rfl
@[simp] theorem setY_nmiLineHigh (v : Byte) : (s.setY v).nmiLineHigh = s.nmiLineHigh := rfl
@[simp] theorem setY_resetLineHigh (v : Byte) : (s.setY v).resetLineHigh = s.resetLineHigh := rfl
@[simp] theorem setY_engine (v : Byte) : (s.setY v).engine = s.engine := rfl
@[simp] theorem setY_cfg (v : Byte) : (s.setY v).cfg = s.cfg := rfl
@[simp] theorem setY_mem (v : Byte) : (s.setY v).mem = s.mem := rfl
@[simp] theorem setY_draws (v : Byte) : (s.setY v).draws = s.draws := rfl
@[simp] theorem setY_schedule (v : Byte) : (s.setY v).schedule = s.schedule := rfl
@[simp] theorem setY_reply (v : Byte) : (s.setY v).reply = s.reply := rfl

@[simp] theorem setSp_a (v : Byte) : (s.setSp v).a = s.a := rfl
@[simp] theorem setSp_x (v : Byte) : (s.setSp v).x = s.x := rfl
@[simp] theorem setSp_y (v : Byte) : (s.setSp v).y = s.y := rfl
@[simp] theorem setSp_sp (v : Byte) : (s.setSp v).sp = v := rfl
@[simp] theorem setSp_p (v : Byte) : (s.setSp v).p = s.p := rfl
@[simp] theorem setSp_pc (v : Byte) : (s.setSp v).pc = s.pc := rfl
@[simp] theorem setSp_resetPending (v : Byte) : (s.setSp v).resetPending = s.resetPending := rfl
@[simp] theorem setSp_nmiPending (v : Byte) : (s.setSp v).nmiPending = s.nmiPending := rfl
@[simp] theorem setSp_irqAsserted (v : Byte) : (s.setSp v).irqAsserted = s.irqAsserted := rfl
@[simp] theorem setSp_nmiLineHigh (v : Byte) : (s.setSp v).nmiLineHigh = s.nmiLineHigh := rfl
@[simp] theorem setSp_resetLineHigh (v : Byte) : (s.setSp v).resetLineHigh = s.resetLineHigh := rfl
@[simp] theorem setSp_engine (v : Byte) : (s.setSp v).engine = s.engine := rfl
@[simp] theorem setSp_cfg (v : Byte) : (s.setSp v).cfg = s.cfg := rfl
@[simp] theorem setSp_mem (v : Byte) : (s.setSp v).mem = s.mem := rfl
@[simp] theorem setSp_draws (v : Byte) : (s.setSp v).draws = s.draws := rfl
@[simp] theorem setSp_schedule (v : Byte) : (s.setSp v).schedule = s.schedule := rfl
@[simp] theorem setSp_reply (v : Byte) : (s.setSp v).reply = s.reply := rfl

@[simp] theorem setP_a (v : Byte) : (s.setP v).a = s.a := rfl
@[simp] theorem setP_x (v : Byte) : (s.setP v).x = s.x := rfl
@[simp] theorem setP_y (v : Byte) : (s.setP v).y = s.y := rfl
@[simp] theorem setP_sp (v : Byte) : (s.setP v).sp = s.sp := rfl
@[simp] theorem setP_p (v : Byte) : (s.setP v).p = v := rfl
@[simp] theorem setP_pc (v : Byte) : (s.setP v).pc = s.pc := rfl
@[simp] theorem setP_resetPending (v : Byte) : (s.setP v).resetPending = s.resetPending := rfl
@[simp] theorem setP_nmiPending (v : Byte) : (s.setP v).nmiPending = s.nmiPending := rfl
@[simp] theorem setP_irqAsserted (v : Byte) : (s.setP v).irqAsserted = s.irqAsserted := rfl
@[simp] theorem setP_nmiLineHigh (v : Byte) : (s.setP v).nmiLineHigh = s.nmiLineHigh := rfl
@[simp] theorem setP_resetLineHigh (v : Byte) : (s.setP v).resetLineHigh = s.resetLineHigh := rfl
@[simp] theorem setP_engine (v : Byte) : (s.setP v).engine = s.engine := rfl
@[simp] theorem setP_cfg (v : Byte) : (s.setP v).cfg = s.cfg := rfl
@[simp] theorem setP_mem (v : Byte) : (s.setP v).mem = s.mem := rfl
@[simp] theorem setP_draws (v : Byte) : (s.setP v).draws = s.draws := rfl
@[simp] theorem setP_schedule (v : Byte) : (s.setP v).schedule = s.schedule := rfl
@[simp] theorem setP_reply (v : Byte) : (s.setP v).reply = s.reply := rfl

@[simp] theorem setPc_a (v : Word) : (s.setPc v).a = s.a := rfl
@[simp] theorem setPc_x (v : Word) : (s.setPc v).x = s.x := rfl
@[simp] theorem setPc_y (v : Word) : (s.setPc v).y = s.y := rfl
@[simp] theorem setPc_sp (v : Word) : (s.setPc v).sp = s.sp := rfl
@[simp] theorem setPc_p (v : Word) : (s.setPc v).p = s.p := rfl
@[simp] theorem setPc_pc (v : Word) : (s.setPc v).pc = v := rfl
@[simp] theorem setPc_resetPending (v : Word) : (s.setPc v).resetPending = s.resetPending := rfl
@[simp] theorem setPc_nmiPending (v : Word) : (s.setPc v).nmiPending = s.nmiPending := rfl
@[simp] theorem setPc_irqAsserted (v : Word) : (s.setPc v).irqAsserted = s.irqAsserted := rfl
@[simp] theorem setPc_nmiLineHigh (v : Word) : (s.setPc v).nmiLineHigh = s.nmiLineHigh := rfl
@[simp] theorem setPc_resetLineHigh (v : Word) : (s.setPc v).resetLineHigh = s.resetLineHigh := rfl
@[simp] theorem setPc_engine (v : Word) : (s.setPc v).engine = s.engine := rfl
@[simp] theorem setPc_cfg (v : Word) : (s.setPc v).cfg = s.cfg := rfl
@[simp] theorem setPc_mem (v : Word) : (s.setPc v).mem = s.mem := rfl
@[simp] theorem setPc_draws (v : Word) : (s.setPc v).draws = s.draws := rfl
@[simp] theorem setPc_schedule (v : Word) : (s.setPc v).schedule = s.schedule := rfl
@[simp] theorem setPc_reply (v : Word) : (s.setPc v).reply = s.reply := rfl

@[simp] theorem setEngine_a (e : Engine) : (s.setEngine e).a = s.a := rfl
@[simp] theorem setEngine_x (e : Engine) : (s.setEngine e).x = s.x := rfl
@[simp] theorem setEngine_y (e : Engine) : (s.setEngine e).y = s.y := rfl
@[simp] theorem setEngine_sp (e : Engine) : (s.setEngine e).sp = s.sp := rfl
@[simp] theorem setEngine_p (e : Engine) : (s.setEngine e).p = s.p := rfl
@[simp] theorem setEngine_pc (e : Engine) : (s.setEngine e).pc = s.pc := rfl
@[simp] theorem setEngine_resetPending (e : Engine) : (s.setEngine e).resetPending = s.resetPending := rfl
@[simp] theorem setEngine_nmiPending (e : Engine) : (s.setEngine e).nmiPending = s.nmiPending := rfl
@[simp] theorem setEngine_irqAsserted (e : Engine) : (s.setEngine e).irqAsserted = s.irqAsserted := rfl
@[simp] theorem setEngine_nmiLineHigh (e : Engine) : (s.setEngine e).nmiLineHigh = s.nmiLineHigh := rfl
@[simp] theorem setEngine_resetLineHigh (e : Engine) : (s.setEngine e).resetLineHigh = s.resetLineHigh := rfl
@[simp] theorem setEngine_engine (e : Engine) : (s.setEngine e).engine = e := rfl
@[simp] theorem setEngine_cfg (e : Engine) : (s.setEngine e).cfg = s.cfg := rfl
@[simp] theorem setEngine_mem (e : Engine) : (s.setEngine e).mem = s.mem := rfl
@[simp] theorem setEngine_draws (e : Engine) : (s.setEngine e).draws = s.draws := rfl
@[simp] theorem setEngine_schedule (e : Engine) : (s.setEngine e).schedule = s.schedule := rfl
@[simp] theorem setEngine_reply (e : Engine) : (s.setEngine e).reply = s.reply := rfl

@[simp] theorem addDraws_a (n : Nat) : (s.addDraws n).a = s.a := rfl
@[simp] theorem addDraws_x (n : Nat) : (s.addDraws n).x = s.x := rfl
@[simp] theorem addDraws_y (n : Nat) : (s.addDraws n).y = s.y := rfl
@[simp] theorem addDraws_sp (n : Nat) : (s.addDraws n).sp = s.sp := rfl
@[simp] theorem addDraws_p (n : Nat) : (s.addDraws n).p = s.p := rfl
@[simp] theorem addDraws_pc (n : Nat) : (s.addDraws n).pc = s.pc := rfl
@[simp] theorem addDraws_resetPending (n : Nat) : (s.addDraws n).resetPending = s.resetPending := rfl
@[simp] theorem addDraws_nmiPending (n : Nat) : (s.addDraws n).nmiPending = s.nmiPending := rfl
@[simp] theorem addDraws_irqAsserted (n : Nat) : (s.addDraws n).irqAsserted = s.irqAsserted := rfl
@[simp] theorem addDraws_nmiLineHigh (n : Nat) : (s.addDraws n).nmiLineHigh = s.nmiLineHigh := rfl
@[simp] theorem addDraws_resetLineHigh (n : Nat) : (s.addDraws n).resetLineHigh = s.resetLineHigh := rfl
@[simp] theorem addDraws_engine (n : Nat) : (s.addDraws n).engine = s.engine := rfl
@[simp] theorem addDraws_cfg (n : Nat) : (s.addDraws n).cfg = s.cfg := rfl
@[simp] theorem addDraws_mem (n : Nat) : (s.addDraws n).mem = s.mem := rfl
@[simp] theorem addDraws_draws (n : Nat) : (s.addDraws n).draws = s.draws + n := rfl
@[simp] theorem addDraws_schedule (n : Nat) : (s.addDraws n).schedule = s.schedule := rfl
@[simp] theorem addDraws_reply (n : Nat) : (s.addDraws n).reply = s.reply := rfl

@[simp] theorem write_a (a : Word) (v : Byte) : (s.write a v).a = s.a := rfl
@[simp] theorem write_x (a : Word) (v : Byte) : (s.write a v).x = s.x := rfl
@[simp] theorem write_y (a : Word) (v : Byte) : (s.write a v).y = s.y := rfl
@[simp] theorem write_sp (a : Word) (v : Byte) : (s.write a v).sp = s.sp := rfl
@[simp] theorem write_p (a : Word) (v : Byte) : (s.write a v).p = s.p := rfl
@[simp] theorem write_pc (a : Word) (v : Byte) : (s.write a v).pc = s.pc := rfl
@[simp] theorem write_resetPending (a : Word) (v : Byte) : (s.write a v).resetPending = s.resetPending := rfl
@[simp] theorem write_nmiPending (a : Word) (v : Byte) : (s.write a v).nmiPending = s.nmiPending := rfl
@[simp] theorem write_irqAsserted (a : Word) (v : Byte) : (s.write a v).irqAsserted = s.irqAsserted := rfl
@[simp] theorem write_nmiLineHigh (a : Word) (v : Byte) : (s.write a v).nmiLineHigh = s.nmiLineHigh := rfl
@[simp] theorem write_resetLineHigh (a : Word) (v : Byte) : (s.write a v).resetLineHigh = s.resetLineHigh := rfl
@[simp] theorem write_engine (a : Word) (v : Byte) : (s.write a v).engine = s.engine := rfl
@[simp] theorem write_cfg (a : Word) (v : Byte) : (s.write a v).cfg = s.cfg := rfl
@[simp] theorem write_mem (a : Word) (v : Byte) : (s.write a v).mem = writeCell s.mem a.toNat v := rfl
@[simp] theorem write_draws (a : Word) (v : Byte) : (s.write a v).draws = s.draws := rfl
@[simp] theorem write_schedule (a : Word) (v : Byte) : (s.write a v).schedule = s.schedule := rfl
@[simp] theorem write_reply (a : Word) (v : Byte) : (s.write a v).reply = s.reply := rfl

@[simp] theorem setA_read (v : Byte) (k : Word) : (s.setA v).read k = s.read k := rfl
@[simp] theorem setA_readWord (v : Byte) (k : Word) : (s.setA v).readWord k = s.readWord k := rfl
@[simp] theorem setA_flag (v : Byte) (f : Flag) : (s.setA v).flag f = s.flag f := rfl
@[simp] theorem setX_read (v : Byte) (k : Word) : (s.setX v).read k = s.read k := rfl
@[simp] theorem setX_readWord (v : Byte) (k : Word) : (s.setX v).readWord k = s.readWord k := rfl
@[simp] theorem setX_flag (v : Byte) (f : Flag) : (s.setX v).flag f = s.flag f := rfl
@[simp] theorem setY_read (v : Byte) (k : Word) : (s.setY v).read k = s.read k := rfl
@[simp] theorem setY_readWord (v : Byte) (k : Word) : (s.setY v).readWord k = s.readWord k := rfl
@[simp] theorem setY_flag (v : Byte) (f : Flag) : (s.setY v).flag f = s.flag f := rfl
@[simp] theorem setSp_read (v : Byte) (k : Word) : (s.setSp v).read k = s.read k := rfl
@[simp] theorem setSp_readWord (v : Byte) (k : Word) : (s.setSp v).readWord k = s.readWord k := rfl
@[simp] theorem setSp_flag (v : Byte) (f : Flag) : (s.setSp v).flag f = s.flag f := rfl
@[simp] theorem setP_read (v : Byte) (k : Word) : (s.setP v).read k = s.read k := rfl
@[simp] theorem setP_readWord (v : Byte) (k : Word) : (s.setP v).readWord k = s.readWord k := rfl
@[simp] theorem setPc_read (v : Word) (k : Word) : (s.setPc v).read k = s.read k := rfl
@[simp] theorem setPc_readWord (v : Word) (k : Word) : (s.setPc v).readWord k = s.readWord k := rfl
@[simp] theorem setPc_flag (v : Word) (f : Flag) : (s.setPc v).flag f = s.flag f := rfl
@[simp] theorem setEngine_read (e : Engine) (k : Word) : (s.setEngine e).read k = s.read k := rfl
@[simp] theorem setEngine_readWord (e : Engine) (k : Word) : (s.setEngine e).readWord k = s.readWord k := rfl
@[simp] theorem setEngine_flag (e : Engine) (f : Flag) : (s.setEngine e).flag f = s.flag f := rfl
@[simp] theorem addDraws_read (n : Nat) (k : Word) : (s.addDraws n).read k = s.read k := rfl
@[simp] theorem addDraws_readWord (n : Nat) (k : Word) : (s.addDraws n).readWord k = s.readWord k := rfl
@[simp] theorem addDraws_flag (n : Nat) (f : Flag) : (s.addDraws n).flag f = s.flag f := rfl
@[simp] theorem write_flag (a : Word) (v : Byte) (f : Flag) : (s.write a v).flag f = s.flag f := rfl
@[simp] theorem setP_flag (v : Byte) (f : Flag) : (s.setP v).flag f = getFlag f v := rfl

end Sys2Proof.Machine
end

