-- ==== Sys2Proof/Laws/Memory.lean ====
section
/-! SUPPORT. The laws of memory: a read after a write, and the canonical form kept by every memory operation. -/

namespace Sys2Proof.Machine

theorem readCell_eraseCell (m : Memory) (a b : Nat) :
    readCell (eraseCell a m) b = if b = a then Memory.unlisted else readCell m b := by
  induction m with
  | nil => simp [eraseCell, readCell]
  | cons e rest ih =>
    obtain ⟨k, w⟩ := e
    simp only [eraseCell, readCell]
    split
    · subst k; rw [ih]; split <;> simp_all
    · rename_i hk
      simp only [readCell, ih]
      by_cases hb : b = k
      · subst hb; simp [Ne.symm hk]
      · simp [hb]

/-- No entry of an erased address is left. -/
theorem eraseCell_no (m : Memory) (a : Nat) : ∀ e ∈ eraseCell a m, e.1 ≠ a := by
  induction m with
  | nil => simp [eraseCell]
  | cons e rest ih =>
    simp only [eraseCell]
    split
    · exact ih
    · rename_i hk
      simp only [List.mem_cons, forall_eq_or_imp]
      exact ⟨fun h => hk h.symm, ih⟩

theorem readCell_insertCell (m : Memory) (a b : Nat) (v : Byte) :
    readCell (insertCell a v (eraseCell a m)) b = if b = a then v else readCell m b := by
  suffices h : ∀ l : Memory, readCell l a = Memory.unlisted → (∀ e ∈ l, e.1 ≠ a) →
      readCell (insertCell a v l) b = if b = a then v else readCell l b by
    rw [h _ (by simp [readCell_eraseCell]) (eraseCell_no m a), readCell_eraseCell]
    split <;> rfl
  intro l
  induction l with
  | nil => simp [insertCell, readCell]
  | cons e rest ih =>
    obtain ⟨k, w⟩ := e
    intro hr hno
    simp only [List.mem_cons, forall_eq_or_imp] at hno
    obtain ⟨hk, hrest⟩ := hno
    have hr' : readCell rest a = Memory.unlisted := by
      simp only [readCell] at hr
      rwa [if_neg (fun h => hk h.symm)] at hr
    simp only [insertCell]
    split
    · simp only [readCell]
    · simp only [readCell, ih hr' hrest]
      split
      · subst k; rw [if_neg hk]
      · rfl

/-- Everything a memory write does to reads. -/
theorem readCell_writeCell (m : Memory) (a b : Nat) (v : Byte) :
    readCell (writeCell m a v) b = if b = a then v else readCell m b := by
  unfold writeCell
  split
  · rename_i h; rw [readCell_eraseCell, h]
  · exact readCell_insertCell m a b v

/-- Everything `MemWrite` does to `MemRead`. -/
theorem read_write (s : State) (a b : Word) (v : Byte) :
    (s.write a v).read b = if b = a then v else s.read b := by
  simp only [State.read, write_mem, readCell_writeCell, BitVec.toNat_inj]

@[simp] theorem read_write_same (s : State) (a : Word) (v : Byte) : (s.write a v).read a = v := by
  simp [read_write]

theorem read_write_ne (s : State) {a b : Word} (v : Byte) (h : b ≠ a) : (s.write a v).read b = s.read b := by
  simp [read_write, h]

theorem wfFrom_mono {m : Memory} {low low' : Nat} (h : m.wfFrom low = true) (hl : low' ≤ low) :
    m.wfFrom low' = true := by
  cases m with
  | nil => rfl
  | cons e rest =>
    simp only [Memory.wfFrom, Bool.and_eq_true, decide_eq_true_eq] at h ⊢
    exact ⟨⟨⟨by omega, h.1.1.2⟩, h.1.2⟩, h.2⟩

theorem eraseCell_wfFrom {m : Memory} {low : Nat} (a : Nat) (h : m.wfFrom low = true) :
    (eraseCell a m).wfFrom low = true := by
  induction m generalizing low with
  | nil => rfl
  | cons e rest ih =>
    simp only [Memory.wfFrom, Bool.and_eq_true, decide_eq_true_eq] at h
    simp only [eraseCell]
    split
    · exact wfFrom_mono (ih h.2) (by omega)
    · simp only [Memory.wfFrom, Bool.and_eq_true, decide_eq_true_eq]
      exact ⟨h.1, ih h.2⟩

theorem insertCell_wfFrom {m : Memory} {low a : Nat} {v : Byte} (h : m.wfFrom low = true)
    (hno : ∀ e ∈ m, e.1 ≠ a) (hl : low ≤ a) (ha : a < 65536) (hv : v ≠ Memory.unlisted) :
    Memory.wfFrom low (insertCell a v m) = true := by
  induction m generalizing low with
  | nil => simp [insertCell, Memory.wfFrom, hl, ha, hv]
  | cons e rest ih =>
    simp only [Memory.wfFrom, Bool.and_eq_true, decide_eq_true_eq] at h
    simp only [List.mem_cons, forall_eq_or_imp] at hno
    simp only [insertCell]
    split
    · simp only [Memory.wfFrom, Bool.and_eq_true, decide_eq_true_eq]
      exact ⟨⟨⟨hl, ha⟩, by simpa using hv⟩, ⟨⟨by omega, h.1.1.2⟩, h.1.2⟩, h.2⟩
    · simp only [Memory.wfFrom, Bool.and_eq_true, decide_eq_true_eq]
      exact ⟨h.1, ih h.2 hno.2 (by omega)⟩

/-- A memory write keeps the canonical form. -/
theorem writeCell_wf {m : Memory} {a : Nat} (v : Byte) (h : m.wf = true) (ha : a < 65536) :
    Memory.wf (writeCell m a v) = true := by
  unfold writeCell
  split
  · exact eraseCell_wfFrom a h
  · rename_i hv
    exact insertCell_wfFrom (eraseCell_wfFrom a h) (eraseCell_no m a) (Nat.zero_le a) ha hv

/-- `MemWrite` keeps the canonical form. -/
theorem write_wf {s : State} (a : Word) (v : Byte) (h : s.mem.wf = true) : (s.write a v).mem.wf = true :=
  writeCell_wf v h a.isLt

/-- The memory at reset is in canonical form. -/
theorem reset_mem_wf : State.reset.mem.wf = true := rfl

end Sys2Proof.Machine
end

