-- ==== Sys2Proof/Laws/Words.lean ====
section
/-! SUPPORT. Words, bytes and addresses as numbers, and the facts of the stack page. -/

namespace Sys2Proof.Machine

theorem wordOf_toNat (hi lo : Byte) : (wordOf hi lo).toNat = hi.toNat * 256 + lo.toNat := by
  unfold wordOf
  rw [BitVec.toNat_ofNat]
  omega

theorem loByte_toNat (w : Word) : (loByte w).toNat = w.toNat % 256 := by
  unfold loByte; rw [BitVec.toNat_ofNat]; omega

theorem hiByte_toNat (w : Word) : (hiByte w).toNat = w.toNat / 256 := by
  unfold hiByte; rw [BitVec.toNat_ofNat]; omega

@[simp] theorem wordOf_hiByte_loByte (w : Word) : wordOf (hiByte w) (loByte w) = w := by
  apply BitVec.eq_of_toNat_eq
  rw [wordOf_toNat, loByte_toNat, hiByte_toNat]; omega

@[simp] theorem loByte_wordOf (hi lo : Byte) : loByte (wordOf hi lo) = lo := by
  apply BitVec.eq_of_toNat_eq
  rw [loByte_toNat, wordOf_toNat]; omega

@[simp] theorem hiByte_wordOf (hi lo : Byte) : hiByte (wordOf hi lo) = hi := by
  apply BitVec.eq_of_toNat_eq
  rw [hiByte_toNat, wordOf_toNat]; omega

theorem zext16_toNat (v : Byte) : (zext16 v).toNat = v.toNat := by
  unfold zext16; rw [BitVec.toNat_ofNat]; omega

theorem sext16_toNat (v : Byte) : (sext16 v).toNat = if 128 ≤ v.toNat then v.toNat + 0xFF00 else v.toNat := by
  unfold sext16
  rw [BitVec.msb_eq_decide]
  by_cases h : 128 ≤ v.toNat
  · simp [h]; omega
  · simp [h]; omega

/-- The stack byte's address as a number: always in page 1 (R23, R250). -/
theorem stackAddr_toNat (sp : Byte) : (stackAddr sp).toNat = 256 + sp.toNat := by
  unfold stackAddr
  rw [BitVec.toNat_or, zext16_toNat]
  have h : (0x0100 : Word).toNat = 2 ^ 8 * 1 := rfl
  rw [h, ← Nat.two_pow_add_eq_or_of_lt (by omega : sp.toNat < 2 ^ 8)]

theorem stackAddr_inj {a b : Byte} : stackAddr a = stackAddr b ↔ a = b := by
  constructor
  · intro h
    apply BitVec.eq_of_toNat_eq
    have := congrArg BitVec.toNat h
    rw [stackAddr_toNat, stackAddr_toNat] at this
    omega
  · exact congrArg _

theorem readWord_toNat (s : State) (a : Word) :
    (s.readWord a).toNat = (s.read (a + 1)).toNat * 256 + (s.read a).toNat := by
  rw [State.readWord, wordOf_toNat]

end Sys2Proof.Machine
end

