-- ==== Sys2Proof/Laws/Ops.lean ====
section
/-! SUPPORT. What each shared operation on the stack, and taking and leaving an interrupt, can do. -/

namespace Sys2Proof.Machine

/-- A write changes memory alone. -/
theorem write_frame (s : State) (a : Word) (v : Byte) : s.write a v = { s with mem := (s.write a v).mem } := rfl

/-- The effect of a write, as the statements say it. -/
theorem write_wrote (s : State) (a : Word) (v : Byte) : WroteByte s (s.write a v) a v :=
  ⟨rfl, fun b => read_write s a b v⟩

/-- A push changes memory and S alone. -/
theorem push_frame (s : State) (v : Byte) : s.push v = { s with mem := (s.push v).mem, sp := s.sp - 1 } := rfl

/-- Everything a push does to memory. -/
theorem push_read (s : State) (v : Byte) (b : Word) :
    (s.push v).read b = if b = stackAddr s.sp then v else s.read b := by
  simp [State.push, read_write]

/-- A pull, whole. -/
theorem pull_eq (s : State) : s.pull = (s.read (stackAddr (s.sp + 1)), { s with sp := s.sp + 1 }) := rfl

/-- A word push changes memory and S alone. -/
theorem pushWord_frame (s : State) (w : Word) :
    s.pushWord w = { s with mem := (s.pushWord w).mem, sp := s.sp - 1 - 1 } := rfl

/-- Everything a word push does to memory. -/
theorem pushWord_read (s : State) (w : Word) (b : Word) :
    (s.pushWord w).read b =
      if b = stackAddr (s.sp - 1) then loByte w else if b = stackAddr s.sp then hiByte w else s.read b := by
  unfold State.pushWord
  rw [push_read, push_read]
  rfl

/-- A word pull, whole. -/
theorem pullWord_eq (s : State) :
    s.pullWord = (wordOf (s.read (stackAddr (s.sp + 1 + 1))) (s.read (stackAddr (s.sp + 1))),
      { s with sp := s.sp + 1 + 1 }) := rfl

/-- An address is the stack byte of S exactly when it is 256 + S. -/
theorem eq_stackAddr {b : Word} {sp : Byte} : b = stackAddr sp ↔ b.toNat = 256 + sp.toNat := by
  rw [← stackAddr_toNat, BitVec.toNat_inj]

theorem ofNat_mod_byte (w : Word) : (BitVec.ofNat 8 w.toNat : Byte) = loByte w := by
  apply BitVec.eq_of_toNat_eq; rw [loByte_toNat, BitVec.toNat_ofNat]

theorem ofNat_div_byte (w : Word) : (BitVec.ofNat 8 (w.toNat / 256) : Byte) = hiByte w := by
  apply BitVec.eq_of_toNat_eq; rw [hiByte_toNat, BitVec.toNat_ofNat]; omega

/-- Taking an interrupt does exactly what the statements call entering one. -/
theorem enterInterrupt_entered (s : State) (pushed : Byte) (masks : Bool) (vector : Word) :
    EnteredInterrupt s (s.enterInterrupt pushed masks vector) pushed masks vector := by
  have hsp : s.sp - 1 - 1 - 1 = s.sp - 3 := by bv_omega
  have hsp2 : s.sp - 1 - 1 = s.sp - 2 := by bv_omega
  refine ⟨if masks then maskInterrupts s.p else s.p, ?_, ?_, ?_⟩
  · unfold State.enterInterrupt
    cases masks <;> simp only [State.setPc, State.setP, State.pushWord, State.push, State.write, State.setSp, hsp] <;> rfl
  · cases masks
    · rfl
    · exact maskInterrupts_wrote s.p
  · intro b
    have h : (s.enterInterrupt pushed masks vector).read b = ((s.pushWord s.pc).push pushed).read b := by
      cases masks <;> rfl
    rw [h, push_read, pushWord_read]
    have h2 : (s.pushWord s.pc).sp = s.sp - 2 := hsp2
    simp only [h2, eq_stackAddr, ofNat_mod_byte, ofNat_div_byte]
    have d1 : (s.sp - 1).toNat ≠ s.sp.toNat := by bv_omega
    have d2 : (s.sp - 2).toNat ≠ s.sp.toNat := by bv_omega
    have d3 : (s.sp - 2).toNat ≠ (s.sp - 1).toNat := by bv_omega
    by_cases e1 : b.toNat = 256 + s.sp.toNat
    · rw [if_neg (by omega), if_neg (by omega), if_pos e1, if_pos e1]
    · by_cases e2 : b.toNat = 256 + (s.sp - 1).toNat
      · rw [if_neg (by omega), if_pos e2, if_neg e1, if_pos e2]
      · rw [if_neg e2, if_neg e1, if_neg e1, if_neg e2]

/-- Returning from an interrupt, whole. -/
theorem returnFromInterrupt_eq (s : State) :
    s.returnFromInterrupt =
      { s with
          p := withBU (s.read (stackAddr (s.sp + 1)))
          sp := s.sp + 1 + 1 + 1
          pc := wordOf (s.read (stackAddr (s.sp + 1 + 1 + 1))) (s.read (stackAddr (s.sp + 1 + 1))) } := rfl

end Sys2Proof.Machine
end

