-- ==== Sys2Proof/Laws/Alu.lean ====
section
/-! SUPPORT. What the adder primitives give, in numbers, and what each shared ALU operation can do. -/

namespace Sys2Proof.Machine

/-- Everything `takeSum` does: A is the result, C, V, Z and N are written. -/
theorem takeSum_eq (s : State) (r : Sum) :
    s.takeSum r = { s with a := r.r, p := setCVNZ r.carry r.overflow r.r s.p } := rfl

/-- Everything a draw does (R165). -/
theorem drawSum_flags (s : State) (f : Flag) :
    getFlag f s.drawSum.p =
      match f with
      | .c => Config.freeBit (s.draws + 1)
      | .z => Config.freeBit (s.draws + 2)
      | .n => Config.freeBit (s.draws + 3)
      | .v => Config.freeBit (s.draws + 4)
      | .i | .d | .b | .u => getFlag f s.p := by
  cases f <;> simp [State.drawSum, getFlag_setFlag]

theorem drawSum_frame (s : State) :
    s.drawSum = { s with a := Config.freeByte s.draws, p := s.drawSum.p, draws := s.draws + 5 } := rfl

/-- Binary mode takes the binary primitive (R166, R167). -/
theorem addSub_binary {s : State} (bin dec : Byte → Byte → Bool → Sum) (m : Byte) (h : s.flag .d = false) :
    s.addSub bin dec m = s.takeSum (bin s.a m (s.flag .c)) := by
  simp [State.addSub, h]

/-- Decimal mode on valid operands takes the decimal primitive (R166, R167). -/
theorem addSub_decimal {s : State} (bin dec : Byte → Byte → Bool → Sum) (m : Byte) (h : s.flag .d = true)
    (ha : bcdValid s.a = true) (hm : bcdValid m = true) :
    s.addSub bin dec m = s.takeSum (dec s.a m (s.flag .c)) := by
  simp [State.addSub, h, ha, hm]

/-- Decimal mode on an invalid operand draws (R165). -/
theorem addSub_invalid {s : State} (bin dec : Byte → Byte → Bool → Sum) (m : Byte) (h : s.flag .d = true)
    (hv : (bcdValid s.a && bcdValid m) = false) : s.addSub bin dec m = s.drawSum := by
  simp [State.addSub, h, hv]

theorem bcdValid_iff (v : Byte) : bcdValid v = true ↔ isBcd v := by
  unfold bcdValid
  rw [Bool.and_eq_true, and_comm]
  exact and_congr decide_eq_true_iff decide_eq_true_iff

/-- The add rule for V, by the signs (R160, R163). -/
theorem addOverflow_signs (a m r : Byte) :
    addOverflow a m r =
      decide ((128 ≤ a.toNat ↔ 128 ≤ m.toNat) ∧ ¬(128 ≤ r.toNat ↔ 128 ≤ a.toNat)) := by
  unfold addOverflow
  rw [BitVec.msb_and, BitVec.msb_xor, BitVec.msb_xor]
  simp only [BitVec.msb_eq_decide]
  by_cases ha : 128 ≤ a.toNat <;> by_cases hm : 128 ≤ m.toNat <;> by_cases hr : 128 ≤ r.toNat <;> simp [ha, hm, hr]

/-- The subtract rule for V, by the signs (R161, R164). -/
theorem subOverflow_signs (a m r : Byte) :
    subOverflow a m r =
      decide (¬(128 ≤ a.toNat ↔ 128 ≤ m.toNat) ∧ ¬(128 ≤ r.toNat ↔ 128 ≤ a.toNat)) := by
  unfold subOverflow
  rw [BitVec.msb_and, BitVec.msb_xor, BitVec.msb_xor]
  simp only [BitVec.msb_eq_decide]
  by_cases ha : 128 ≤ a.toNat <;> by_cases hm : 128 ≤ m.toNat <;> by_cases hr : 128 ≤ r.toNat <;> simp [ha, hm, hr]

/-- The result of a subtraction as a number. -/
theorem subBin_toNat (a m : Byte) (c : Bool) :
    ((subBin a m c).r.toNat : Int) = ((a.toNat : Int) - m.toNat - (1 - (c.toNat : Int))) % 256 := by
  simp only [subBin, BitVec.toNat_ofInt]
  omega

end Sys2Proof.Machine
end

