-- ==== Sys2Proof/Laws/Control.lean ====
section
/-! SUPPORT. What a relative target, a zero-page pointer, a shift and a vendor bit write come to, in numbers. -/

namespace Sys2Proof.Machine

/-- A relative target is pc plus the signed offset, modulo 2^16 (R85). -/
theorem relTarget_toNat (s : State) (r : Byte) :
    ((s.relTarget r).toNat : Int) = ((s.pc.toNat : Int) + r.toInt) % 65536 := by
  unfold State.relTarget
  rw [BitVec.toNat_add, sext16_toNat, BitVec.toInt_eq_toNat_cond]
  have := r.isLt
  split <;> split <;> omega

/-- Everything a branch does (R260): pc alone may change. -/
theorem branch_eq (s : State) (cond : Bool) (r : Byte) :
    s.branch cond r = { s with pc := if cond then s.relTarget r else s.pc } := by
  cases cond <;> rfl

/-- Everything a vendor bit branch does (R303, R304): pc alone may change. -/
theorem branchBit_eq (s : State) (b : Nat) (on : Bool) (z r : Byte) :
    s.branchBit b on z r =
      { s with pc := if (s.read (zext16 z)).getLsbD b = on then s.relTarget r else s.pc } := by
  unfold State.branchBit
  by_cases h : (s.read (zext16 z)).getLsbD b = on
  · rw [if_pos (by simpa using h), if_pos h]; rfl
  · rw [if_neg (by simpa using h), if_neg h]

/-- Where the high byte of a zero-page pointer stands (R84). -/
theorem zpPtrHigh_toNat (wrap : Bool) (z : Byte) :
    (zpPtrHigh wrap z).toNat = if z.toNat = 255 then (if wrap then 0 else 256) else z.toNat + 1 := by
  unfold zpPtrHigh
  have h : z = 0xFF ↔ z.toNat = 255 := by bv_omega
  simp only [h]
  split
  · cases wrap <;> rfl
  · have := zext16_toNat z; bv_omega

/-- A shift on the accumulator changes A and P alone (R200). -/
theorem shiftOp_acc (s : State) (f : Byte → Bool → Byte × Bool) :
    s.shiftOp f .acc =
      { s with a := (f s.a (s.flag .c)).1, p := setCNZ (f s.a (s.flag .c)).2 (f s.a (s.flag .c)).1 s.p } := rfl

/-- A shift on memory changes the byte at EA and P alone (R200). -/
theorem shiftOp_mem (s : State) (f : Byte → Bool → Byte × Bool) (m : Addr) :
    s.shiftOp f (.mem m) =
      (s.write (s.ea m) (f (s.read (s.ea m)) (s.flag .c)).1).setP
        (setCNZ (f (s.read (s.ea m)) (s.flag .c)).2 (f (s.read (s.ea m)) (s.flag .c)).1 s.p) := rfl

/-- The bits of a byte after RMB (R301). -/
theorem and_not_bitMask (v : Byte) {b k : Nat} (hb : b < 8) (hk : k < 8) :
    (v &&& ~~~(bitMask b)).getLsbD k = if k = b then false else v.getLsbD k := by
  interval_cases b <;> interval_cases k <;> simp [bitMask]

/-- The bits of a byte after SMB (R302). -/
theorem or_bitMask (v : Byte) {b k : Nat} (hb : b < 8) (hk : k < 8) :
    (v ||| bitMask b).getLsbD k = if k = b then true else v.getLsbD k := by
  interval_cases b <;> interval_cases k <;> simp [bitMask]

end Sys2Proof.Machine
end

