-- ==== Sys2Proof/Laws/Decode.lean ====
section
/-! SUPPORT. A fact about every opcode, proved row by row of the opcode matrix; and what the decoder gives for each kind
of cell. -/

namespace Sys2Proof.Machine

/-- A property of the cells of one matrix row, the first at the given opcode. -/
def RowHolds (P : Byte → Entry → Prop) (base : Nat) : List Entry → Prop
  | [] => True
  | e :: rest => P (BitVec.ofNat 8 base) e ∧ RowHolds P (base + 1) rest

theorem rowHolds_getD {P : Byte → Entry → Prop} {row : List Entry} {base : Nat} (h : RowHolds P base row) {k : Nat}
    (hk : k < row.length) : P (BitVec.ofNat 8 (base + k)) (row.getD k .undef) := by
  induction row generalizing base k with
  | nil => simp at hk
  | cons e rest ih =>
    cases k with
    | zero => exact h.1
    | succ k =>
      have := ih h.2 (by simpa using hk)
      rwa [Nat.add_right_comm, Nat.add_assoc] at this

/-- A property of every opcode and its cell follows from the sixteen rows. -/
theorem forall_opcode (P : Byte → Entry → Prop)
    (h0 : RowHolds P 0x00 opcodeRow0) (h1 : RowHolds P 0x10 opcodeRow1) (h2 : RowHolds P 0x20 opcodeRow2)
    (h3 : RowHolds P 0x30 opcodeRow3) (h4 : RowHolds P 0x40 opcodeRow4) (h5 : RowHolds P 0x50 opcodeRow5)
    (h6 : RowHolds P 0x60 opcodeRow6) (h7 : RowHolds P 0x70 opcodeRow7) (h8 : RowHolds P 0x80 opcodeRow8)
    (h9 : RowHolds P 0x90 opcodeRow9) (hA : RowHolds P 0xA0 opcodeRowA) (hB : RowHolds P 0xB0 opcodeRowB)
    (hC : RowHolds P 0xC0 opcodeRowC) (hD : RowHolds P 0xD0 opcodeRowD) (hE : RowHolds P 0xE0 opcodeRowE)
    (hF : RowHolds P 0xF0 opcodeRowF) (op : Byte) : P op (opcodeEntry op) := by
  have key : ∀ hi < 16, ∀ lo < 16, P (BitVec.ofNat 8 (hi * 16 + lo)) ((opcodeMatrix.getD hi []).getD lo .undef) := by
    intro hi hhi lo hlo
    interval_cases hi
    exacts [rowHolds_getD h0 hlo, rowHolds_getD h1 hlo, rowHolds_getD h2 hlo, rowHolds_getD h3 hlo,
      rowHolds_getD h4 hlo, rowHolds_getD h5 hlo, rowHolds_getD h6 hlo, rowHolds_getD h7 hlo,
      rowHolds_getD h8 hlo, rowHolds_getD h9 hlo, rowHolds_getD hA hlo, rowHolds_getD hB hlo,
      rowHolds_getD hC hlo, rowHolds_getD hD hlo, rowHolds_getD hE hlo, rowHolds_getD hF hlo]
  have hlt := op.isLt
  have := key (op.toNat / 16) (by omega) (op.toNat % 16) (by omega)
  rw [Nat.div_add_mod'] at this
  simpa [opcodeEntry] using this

/-- The bytes of a 16-bit operand, low byte first (R83). -/
@[simp] theorem wordOf_bytes (b1 b2 : Byte) : [loByte (wordOf b2 b1), hiByte (wordOf b2 b1)] = [b1, b2] := by simp

/-- An opcode that reaches the unimplemented path is read as one byte. -/
theorem unimpl_length (op : Byte) : (Instr.unimpl op).length = 1 := rfl

end Sys2Proof.Machine
end

