-- ==== Sys2Proof/Laws/PerInstr.lean ====
section
/-! SUPPORT. A statement about every instruction as syntax, one lemma a constructor: its operand bytes are those its
format has (R81), so an instruction is one, two or three bytes. -/

namespace Sys2Proof.Laws.EncodeLength

/-- The opcode byte and the operand bytes are exactly the instruction's length, which is 1, 2 or 3 (R80, R81). -/
def Statement (i : Instr) : Prop := i.operandBytes.length + 1 = i.length ∧ 1 ≤ i.length ∧ i.length ≤ 3

/-- Only the byte count is left to show: every mode has 1 to 3 bytes. -/
theorem of_bytes {i : Instr} (h : i.operandBytes.length + 1 = i.length) : Statement i := by
  refine ⟨h, ?_⟩
  unfold Instr.length
  cases i.mode <;> decide

theorem of_addr (m : Addr) : m.bytes.length + 1 = m.mode.length := by cases m <;> rfl

theorem of_operand (o : Operand) : o.bytes.length + 1 = o.mode.length := by
  cases o with
  | imm v => rfl
  | mem m => exact of_addr m

theorem of_target (t : Target) : t.bytes.length + 1 = t.mode.length := by
  cases t with
  | acc => rfl
  | mem m => exact of_addr m

theorem lda (o : Operand) : Statement (.lda o) := of_bytes (of_operand o)
theorem ldx (o : Operand) : Statement (.ldx o) := of_bytes (of_operand o)
theorem ldy (o : Operand) : Statement (.ldy o) := of_bytes (of_operand o)
theorem sta (m : Addr) : Statement (.sta m) := of_bytes (of_addr m)
theorem stx (m : Addr) : Statement (.stx m) := of_bytes (of_addr m)
theorem sty (m : Addr) : Statement (.sty m) := of_bytes (of_addr m)
theorem stz (m : Addr) : Statement (.stz m) := of_bytes (of_addr m)
theorem tax : Statement .tax := of_bytes rfl
theorem tay : Statement .tay := of_bytes rfl
theorem txa : Statement .txa := of_bytes rfl
theorem tya : Statement .tya := of_bytes rfl
theorem tsx : Statement .tsx := of_bytes rfl
theorem txs : Statement .txs := of_bytes rfl
theorem adc (o : Operand) : Statement (.adc o) := of_bytes (of_operand o)
theorem sbc (o : Operand) : Statement (.sbc o) := of_bytes (of_operand o)
theorem and (o : Operand) : Statement (.and o) := of_bytes (of_operand o)
theorem ora (o : Operand) : Statement (.ora o) := of_bytes (of_operand o)
theorem eor (o : Operand) : Statement (.eor o) := of_bytes (of_operand o)
theorem cmp (o : Operand) : Statement (.cmp o) := of_bytes (of_operand o)
theorem cpx (o : Operand) : Statement (.cpx o) := of_bytes (of_operand o)
theorem cpy (o : Operand) : Statement (.cpy o) := of_bytes (of_operand o)
theorem bit (m : Addr) : Statement (.bit m) := of_bytes (of_addr m)
theorem bitImm (b : Byte) : Statement (.bitImm b) := of_bytes rfl
theorem inc (m : Addr) : Statement (.inc m) := of_bytes (of_addr m)
theorem incA : Statement .incA := of_bytes rfl
theorem inx : Statement .inx := of_bytes rfl
theorem iny : Statement .iny := of_bytes rfl
theorem dec (m : Addr) : Statement (.dec m) := of_bytes (of_addr m)
theorem decA : Statement .decA := of_bytes rfl
theorem dex : Statement .dex := of_bytes rfl
theorem dey : Statement .dey := of_bytes rfl
theorem tsb (m : Addr) : Statement (.tsb m) := of_bytes (of_addr m)
theorem trb (m : Addr) : Statement (.trb m) := of_bytes (of_addr m)
theorem asl (t : Target) : Statement (.asl t) := of_bytes (of_target t)
theorem lsr (t : Target) : Statement (.lsr t) := of_bytes (of_target t)
theorem rol (t : Target) : Statement (.rol t) := of_bytes (of_target t)
theorem ror (t : Target) : Statement (.ror t) := of_bytes (of_target t)
theorem clc : Statement .clc := of_bytes rfl
theorem sec : Statement .sec := of_bytes rfl
theorem cli : Statement .cli := of_bytes rfl
theorem sei : Statement .sei := of_bytes rfl
theorem cld : Statement .cld := of_bytes rfl
theorem sed : Statement .sed := of_bytes rfl
theorem clv : Statement .clv := of_bytes rfl
theorem pha : Statement .pha := of_bytes rfl
theorem php : Statement .php := of_bytes rfl
theorem phx : Statement .phx := of_bytes rfl
theorem phy : Statement .phy := of_bytes rfl
theorem pla : Statement .pla := of_bytes rfl
theorem plp : Statement .plp := of_bytes rfl
theorem plx : Statement .plx := of_bytes rfl
theorem ply : Statement .ply := of_bytes rfl
theorem bpl (b : Byte) : Statement (.bpl b) := of_bytes rfl
theorem bmi (b : Byte) : Statement (.bmi b) := of_bytes rfl
theorem bvc (b : Byte) : Statement (.bvc b) := of_bytes rfl
theorem bvs (b : Byte) : Statement (.bvs b) := of_bytes rfl
theorem bcc (b : Byte) : Statement (.bcc b) := of_bytes rfl
theorem bcs (b : Byte) : Statement (.bcs b) := of_bytes rfl
theorem bne (b : Byte) : Statement (.bne b) := of_bytes rfl
theorem beq (b : Byte) : Statement (.beq b) := of_bytes rfl
theorem bra (b : Byte) : Statement (.bra b) := of_bytes rfl
theorem jmp (w : Word) : Statement (.jmp w) := of_bytes rfl
theorem jmpInd (w : Word) : Statement (.jmpInd w) := of_bytes rfl
theorem jmpIax (w : Word) : Statement (.jmpIax w) := of_bytes rfl
theorem jsr (w : Word) : Statement (.jsr w) := of_bytes rfl
theorem rts : Statement .rts := of_bytes rfl
theorem rti : Statement .rti := of_bytes rfl
theorem brk (b : Byte) : Statement (.brk b) := of_bytes rfl
theorem nop : Statement .nop := of_bytes rfl
theorem rmb0 (b : Byte) : Statement (.rmb0 b) := of_bytes rfl
theorem rmb1 (b : Byte) : Statement (.rmb1 b) := of_bytes rfl
theorem rmb2 (b : Byte) : Statement (.rmb2 b) := of_bytes rfl
theorem rmb3 (b : Byte) : Statement (.rmb3 b) := of_bytes rfl
theorem rmb4 (b : Byte) : Statement (.rmb4 b) := of_bytes rfl
theorem rmb5 (b : Byte) : Statement (.rmb5 b) := of_bytes rfl
theorem rmb6 (b : Byte) : Statement (.rmb6 b) := of_bytes rfl
theorem rmb7 (b : Byte) : Statement (.rmb7 b) := of_bytes rfl
theorem smb0 (b : Byte) : Statement (.smb0 b) := of_bytes rfl
theorem smb1 (b : Byte) : Statement (.smb1 b) := of_bytes rfl
theorem smb2 (b : Byte) : Statement (.smb2 b) := of_bytes rfl
theorem smb3 (b : Byte) : Statement (.smb3 b) := of_bytes rfl
theorem smb4 (b : Byte) : Statement (.smb4 b) := of_bytes rfl
theorem smb5 (b : Byte) : Statement (.smb5 b) := of_bytes rfl
theorem smb6 (b : Byte) : Statement (.smb6 b) := of_bytes rfl
theorem smb7 (b : Byte) : Statement (.smb7 b) := of_bytes rfl
theorem bbr0 (z r : Byte) : Statement (.bbr0 z r) := of_bytes rfl
theorem bbr1 (z r : Byte) : Statement (.bbr1 z r) := of_bytes rfl
theorem bbr2 (z r : Byte) : Statement (.bbr2 z r) := of_bytes rfl
theorem bbr3 (z r : Byte) : Statement (.bbr3 z r) := of_bytes rfl
theorem bbr4 (z r : Byte) : Statement (.bbr4 z r) := of_bytes rfl
theorem bbr5 (z r : Byte) : Statement (.bbr5 z r) := of_bytes rfl
theorem bbr6 (z r : Byte) : Statement (.bbr6 z r) := of_bytes rfl
theorem bbr7 (z r : Byte) : Statement (.bbr7 z r) := of_bytes rfl
theorem bbs0 (z r : Byte) : Statement (.bbs0 z r) := of_bytes rfl
theorem bbs1 (z r : Byte) : Statement (.bbs1 z r) := of_bytes rfl
theorem bbs2 (z r : Byte) : Statement (.bbs2 z r) := of_bytes rfl
theorem bbs3 (z r : Byte) : Statement (.bbs3 z r) := of_bytes rfl
theorem bbs4 (z r : Byte) : Statement (.bbs4 z r) := of_bytes rfl
theorem bbs5 (z r : Byte) : Statement (.bbs5 z r) := of_bytes rfl
theorem bbs6 (z r : Byte) : Statement (.bbs6 z r) := of_bytes rfl
theorem bbs7 (z r : Byte) : Statement (.bbs7 z r) := of_bytes rfl
theorem wai : Statement .wai := of_bytes rfl
theorem stp : Statement .stp := of_bytes rfl
theorem unimpl (b : Byte) : Statement (.unimpl b) := of_bytes rfl

end Sys2Proof.Laws.EncodeLength
end

