-- ==== Sys2Proof/Laws/Step.lean ====
section
/-! SUPPORT. Everything one step can do: the inversion of `step`, which later proofs cite instead of unfolding it. -/

namespace Sys2Proof.Machine

/-- On the core's turn, a step is the core's step with the turn taken. -/
theorem step_of_coreTurn {s : State} (h : s.coreTurn) : step s = s.turnTaken.coreStep := by
  rcases h with h | ⟨l, h⟩
  · simp only [step, State.takeTurn, h, State.turnTaken, List.tail_nil]
    show s.coreStep = { s with schedule := [] }.coreStep
    rw [← h]
  · simp only [step, State.takeTurn, h, State.turnTaken, List.tail_cons]

/-- On a host turn, a step is that host operation. -/
theorem step_of_hostTurn {s : State} {op : HostOp} {l : List Turn} (h : s.schedule = .host op :: l) :
    step s = .next (hostStep op (s.setSchedule l)) := by
  simp only [step, State.takeTurn, h]

/-- The instruction fetched is the one the decoder reads at pc. -/
theorem fetch_of_decode {s : State} {i : Instr} {rest : List Byte}
    (h : decode s.cfg.ext s.bytesAtPc = .ok i rest) : s.fetch = i := by
  simp only [decode, State.bytesAtPc] at h
  split at h
  · simp at h
  · simp only [Decoded.ok.injEq] at h
    exact h.1

/-- The engine states from which the core's turn runs an iteration. -/
def MayRun (s : State) : Prop :=
  s.resetLineHigh = true ∧
    (s.engine = .running ∨ (s.engine = .waitingForReset ∧ s.resetPending = true) ∨
      (s.engine = .paused ∧ s.attention = true))

/-- A Faulted core has no step (R342, R347). -/
theorem coreStep_faulted {s : State} {addr : Word} {op : Byte} (h : s.engine = .faulted addr op) :
    s.coreStep = .next s := by
  simp only [State.coreStep, h]

/-- The record of the fault the unimplemented path enters (R324, R341). -/
@[simp] theorem failUnimpl_faultRecord (s : State) (start : Word) (op : Byte) :
    (s.failUnimpl start op).faultRecord = some (.unimplementedInstruction start op) := rfl

/-- Everything the core's turn can do that ends in a next state: nothing, or one iteration from Running. -/
theorem coreStep_cases {s t : State} (h : s.coreStep = .next t) :
    t = s ∨ (MayRun s ∧ (s.setEngine .running).iteration = .next t) := by
  unfold State.coreStep at h
  cases e : s.engine with
  | off => rw [e] at h; exact .inl (by simpa using h.symm)
  | faulted a o => rw [e] at h; exact .inl (by simpa using h.symm)
  | running =>
    rw [e] at h
    by_cases hr : s.resetLineHigh = true
    · refine .inr ⟨⟨hr, .inl e⟩, ?_⟩
      have : s.setEngine .running = s := by rw [← e]; rfl
      rw [this]; simpa [hr] using h
    · exact .inl (by simpa [hr] using h.symm)
  | waitingForReset =>
    rw [e] at h
    by_cases hr : (s.resetPending && s.resetLineHigh) = true
    · simp only [hr, if_true] at h
      rw [Bool.and_eq_true] at hr
      exact .inr ⟨⟨hr.2, .inr (.inl ⟨e, hr.1⟩)⟩, h⟩
    · simp only [hr] at h
      exact .inl (by simpa using h.symm)
  | paused =>
    rw [e] at h
    by_cases hr : (s.resetLineHigh && s.attention) = true
    · simp only [hr, if_true] at h
      rw [Bool.and_eq_true] at hr
      exact .inr ⟨⟨hr.1, .inr (.inr ⟨e, hr.2⟩)⟩, h⟩
    · simp only [hr] at h
      exact .inl (by simpa using h.symm)

/-- Everything a step can do that ends in a next state: a host operation, a turn with no step, or one instruction, after
at most one service. -/
theorem step_cases {s t : State} (h : step s = .next t) :
    (∃ op l, s.schedule = .host op :: l ∧ t = hostStep op (s.setSchedule l)) ∨
    (s.coreTurn ∧ t = s.turnTaken) ∨
    (s.coreTurn ∧ MayRun s ∧ ∃ u,
      (u = s.turnTaken.setEngine .running ∨ u = (s.turnTaken.setEngine .running).attend) ∧
      exec u.fetch (u.setPc (u.pc + BitVec.ofNat 16 u.fetch.length)) = .next t) := by
  by_cases hc : s.coreTurn
  · rw [step_of_coreTurn hc] at h
    rcases coreStep_cases h with h | ⟨hm, h⟩
    · exact .inr (.inl ⟨hc, h⟩)
    · refine .inr (.inr ⟨hc, hm, ?_⟩)
      unfold State.iteration at h
      split at h
      · exact ⟨_, .inr rfl, h⟩
      · exact ⟨_, .inl rfl, h⟩
  · cases e : s.schedule with
    | nil => exact absurd (.inl e) hc
    | cons turn l =>
      cases turn with
      | core => exact absurd (.inr ⟨l, e⟩) hc
      | host op =>
        rw [step_of_hostTurn e] at h
        exact .inl ⟨op, l, rfl, (by simpa using h.symm)⟩

/-- A service leaves the engine, the configuration, the schedule, the lines and the level of IRQ alone. -/
theorem attend_frame (s : State) :
    s.attend.engine = s.engine ∧ s.attend.cfg = s.cfg ∧ s.attend.schedule = s.schedule ∧
    s.attend.irqAsserted = s.irqAsserted ∧ s.attend.nmiLineHigh = s.nmiLineHigh ∧
    s.attend.resetLineHigh = s.resetLineHigh := by
  have hreset : s.resetService = { s with
      resetPending := false, nmiPending := false, p := s.resetService.p, pc := s.resetService.pc } := by
    unfold State.resetService
    cases s.cfg.resetMasks <;> rfl
  unfold State.attend
  split
  · rw [hreset]; exact ⟨rfl, rfl, rfl, rfl, rfl, rfl⟩
  split
  · obtain ⟨_, h, _⟩ := enterInterrupt_entered { s with nmiPending := false }
      (nmiPushedP s.cfg.nmiPushB s.p) s.cfg.nmiMasks 0xFFFA
    unfold State.nmiService
    rw [h]; exact ⟨rfl, rfl, rfl, rfl, rfl, rfl⟩
  split
  · obtain ⟨_, h, _⟩ := enterInterrupt_entered s (irqPushedP s.p) true 0xFFFE
    unfold State.irqService
    rw [h]; exact ⟨rfl, rfl, rfl, rfl, rfl, rfl⟩
  · exact ⟨rfl, rfl, rfl, rfl, rfl, rfl⟩

end Sys2Proof.Machine
end

