-- ==== Sys2Proof/Machine/Timing.lean ====
section
/-! DEFINITION. The non-normative timing model (spec/70_reset_and_hazards.md R408 to R414, spec/30_encoding.md R106), for
information only: no step calls a definition of this file, and no rule of the core reads a cycle count (R408, log 14). -/

namespace Sys2Proof.Machine

/-- The `cycles_gk` column of spec/opcode_table.json, one list a row of the matrix; 0 where a row has none (R409). -/
def baseCycleTable : List (List Nat) :=
  [[7, 6, 0, 0, 5, 3, 5, 5, 3, 2, 2, 0, 6, 4, 6, 5],
   [2, 5, 5, 0, 5, 4, 6, 5, 2, 4, 2, 0, 6, 4, 6, 5],
   [6, 6, 0, 0, 3, 3, 5, 5, 4, 2, 2, 0, 4, 4, 6, 5],
   [2, 5, 5, 0, 4, 4, 6, 5, 2, 4, 2, 0, 4, 4, 6, 5],
   [6, 6, 0, 0, 0, 3, 5, 5, 3, 2, 2, 0, 3, 4, 6, 5],
   [2, 5, 5, 0, 0, 4, 6, 5, 2, 4, 3, 0, 0, 4, 6, 5],
   [6, 6, 0, 0, 3, 3, 5, 5, 4, 2, 2, 0, 6, 4, 6, 5],
   [2, 5, 5, 0, 4, 4, 6, 5, 2, 4, 4, 0, 6, 4, 6, 5],
   [3, 6, 0, 0, 3, 3, 3, 5, 2, 2, 2, 0, 4, 4, 4, 5],
   [2, 6, 5, 0, 4, 4, 4, 5, 2, 5, 2, 0, 4, 5, 5, 5],
   [2, 6, 2, 0, 3, 3, 3, 5, 2, 2, 2, 0, 4, 4, 4, 5],
   [2, 5, 5, 0, 4, 4, 4, 5, 2, 4, 2, 0, 4, 4, 4, 5],
   [2, 6, 0, 0, 3, 3, 5, 5, 2, 2, 2, 3, 4, 4, 6, 5],
   [2, 5, 5, 0, 0, 4, 6, 5, 2, 4, 3, 3, 0, 4, 7, 5],
   [2, 6, 0, 0, 3, 3, 5, 5, 2, 2, 2, 0, 4, 4, 6, 5],
   [2, 5, 5, 0, 0, 4, 6, 5, 2, 4, 4, 0, 0, 4, 7, 5]]

/-- The base cycles of an instruction (R409); an opcode on the unimplemented path charges a count no source gives. -/
def baseCycles (i : Instr) : Nat :=
  match i, i.opcode with
  | .unimpl op, _ => Config.unimplCycles op
  | _, some op => (baseCycleTable.getD (op.toNat / 16) []).getD (op.toNat % 16) 0
  | _, none => 0

/-- `cross(base, ea)` (R106). -/
def pageCross (base ea : Word) : Bool := !(hiByte base == hiByte ea)

/-- A memory operand crosses a page: modes `absx`, `absy` and `izy` alone (R106, R410). -/
def State.operandCrosses (s : State) (m : Addr) : Bool :=
  match m with
  | .absx w | .absy w => pageCross w (s.ea m)
  | .izy z => pageCross (s.zpPtr z) (s.ea m)
  | .zp _ | .zpx _ | .zpy _ | .abs _ | .izx _ | .izp _ => false

/-- The page-cross surcharge of a read-type operand (R410). -/
def State.readSurcharge (s : State) : Operand → Nat
  | .imm _ => 0
  | .mem m => (s.operandCrosses m).toNat

/-- The page-cross surcharge of a shift or rotate, which the table's `cycle_surcharge_gk` gives its `absx` form (R410). -/
def State.shiftSurcharge (s : State) : Target → Nat
  | .acc => 0
  | .mem m => (s.operandCrosses m).toNat

/-- The surcharge of a conditional branch: one taken, one more for a target in another page (R411). -/
def State.branchSurcharge (s : State) (taken : Bool) (r : Byte) : Nat :=
  if taken then 1 + (pageCross s.pc (s.relTarget r)).toNat else 0

/-- The surcharge of BBR and BBS, which the spec does not settle (R411). -/
def State.bitBranchSurcharge (s : State) (b : Nat) (on : Bool) (z r : Byte) : Nat :=
  Config.bitBranchSurcharge ((s.read (zext16 z)).getLsbD b == on) (pageCross s.pc (s.relTarget r))

/-- The surcharges of an instruction, from the state its meaning starts in (R410 to R412). -/
def State.surcharge (s : State) (i : Instr) : Nat :=
  match i with
  | .lda o | .ldx o | .ldy o | .and o | .ora o | .eor o | .cmp o | .cpx o | .cpy o => s.readSurcharge o
  | .adc o | .sbc o => s.readSurcharge o + (s.flag .d).toNat
  | .bit m => (s.operandCrosses m).toNat
  | .asl t | .lsr t | .rol t | .ror t => s.shiftSurcharge t
  | .bpl r => s.branchSurcharge (!s.flag .n) r
  | .bmi r => s.branchSurcharge (s.flag .n) r
  | .bvc r => s.branchSurcharge (!s.flag .v) r
  | .bvs r => s.branchSurcharge (s.flag .v) r
  | .bcc r => s.branchSurcharge (!s.flag .c) r
  | .bcs r => s.branchSurcharge (s.flag .c) r
  | .bne r => s.branchSurcharge (!s.flag .z) r
  | .beq r => s.branchSurcharge (s.flag .z) r
  | .bra r => (pageCross s.pc (s.relTarget r)).toNat
  | .bbr0 z r => s.bitBranchSurcharge 0 false z r
  | .bbr1 z r => s.bitBranchSurcharge 1 false z r
  | .bbr2 z r => s.bitBranchSurcharge 2 false z r
  | .bbr3 z r => s.bitBranchSurcharge 3 false z r
  | .bbr4 z r => s.bitBranchSurcharge 4 false z r
  | .bbr5 z r => s.bitBranchSurcharge 5 false z r
  | .bbr6 z r => s.bitBranchSurcharge 6 false z r
  | .bbr7 z r => s.bitBranchSurcharge 7 false z r
  | .bbs0 z r => s.bitBranchSurcharge 0 true z r
  | .bbs1 z r => s.bitBranchSurcharge 1 true z r
  | .bbs2 z r => s.bitBranchSurcharge 2 true z r
  | .bbs3 z r => s.bitBranchSurcharge 3 true z r
  | .bbs4 z r => s.bitBranchSurcharge 4 true z r
  | .bbs5 z r => s.bitBranchSurcharge 5 true z r
  | .bbs6 z r => s.bitBranchSurcharge 6 true z r
  | .bbs7 z r => s.bitBranchSurcharge 7 true z r
  | .sta _ | .stx _ | .sty _ | .stz _ | .tax | .tay | .txa | .tya | .tsx | .txs | .bitImm _ | .inc _ | .incA
  | .inx | .iny | .dec _ | .decA | .dex | .dey | .tsb _ | .trb _ | .clc | .sec | .cli | .sei | .cld | .sed
  | .clv | .pha | .php | .phx | .phy | .pla | .plp | .plx | .ply | .jmp _ | .jmpInd _ | .jmpIax _ | .jsr _
  | .rts | .rti | .brk _ | .nop | .rmb0 _ | .rmb1 _ | .rmb2 _ | .rmb3 _ | .rmb4 _ | .rmb5 _ | .rmb6 _ | .rmb7 _
  | .smb0 _ | .smb1 _ | .smb2 _ | .smb3 _ | .smb4 _ | .smb5 _ | .smb6 _ | .smb7 _ | .wai | .stp | .unimpl _ => 0

/-- The cycles of an instruction (R409 to R412). -/
def State.cycles (s : State) (i : Instr) : Nat := baseCycles i + s.surcharge i

/-- The cycles of a reset, NMI or IRQ service (R414). -/
def serviceCycles : Nat := 7

/-- The sleep that paces a number of cycles (R413): a period of zero disables pacing. Log 15. -/
def Settings.sleep (c : Settings) (cycles : Nat) : Nat := cycles * c.clockPeriod

end Sys2Proof.Machine
end

