-- ==== Sys2Proof/Tests/Slice0.lean ====
section
/-! SUPPORT. Tests: the WellFormed smoke, a decoded word for every constructor, the vectors of spec/95_test_vectors.md
(each about one step, at most two an instruction), and a witness for the hypotheses of every statement that has some. -/

namespace Sys2Proof.Machine

/-- Memory bytes set. -/
def State.poke (s : State) : List (Word × Byte) → State
  | [] => s
  | (a, v) :: rest => (s.write a v).poke rest

/-- Code stored at an address, pc there. -/
def State.place (s : State) (org : Word) (code : List Byte) : State := (s.storeBytes org code).setPc org

end Sys2Proof.Machine

namespace Sys2Proof.Tests

open Sys2Proof Sys2Proof.Machine

/-- The defaults of the configuration in 95_test_vectors.md Part C, with the other OPEN parameters false. -/
def settings : Settings := ⟨true, true, .fail, 0, false, false, false, false⟩

/-- The default start state of Part C: Running, reset line high, S = 0xFF, P = 0x30, every memory byte zero. -/
def machine : State :=
  { State.powerOn with sp := 0xFF, p := 0x30, resetLineHigh := true, engine := .running, cfg := settings }

/-- A property of the state a step gives. -/
def gives (s : State) (P : State → Bool) : Bool :=
  match step s with
  | .next t => P t
  | .fault _ | .refused _ => false

/-- A step from a state gives exactly the state made from it. -/
def lands (s : State) (f : State → State) : Bool := gives s (fun t => t == f s)

/-- The state after two steps has a property. -/
def givesTwo (s : State) (P : State → Bool) : Bool := gives s (fun t => gives t P)

/-- Every word decodes to its instruction, nothing left over. -/
def decodesAll (l : List (List Byte × Instr)) : Bool :=
  l.all fun e => decode ⟨true, true⟩ e.1 == .ok e.2 []

/-! ### WellFormed: an ill-formed term for each check, beside a well-formed one -/

/-- An operand form the instruction's rule does not list (R131 to R204). -/
theorem test_wf_refuses_unlisted_forms :
    ∀ i ∈ ([.ldx (.mem (.zpx 0)), .ldy (.mem (.zpy 0)), .lda (.mem (.zpy 0)), .sta (.zpy 0), .stx (.zpx 0),
        .sty (.absx 0), .stz (.izp 0), .cpx (.mem (.zpx 0)), .cpy (.mem (.absx 0)), .bit (.izx 0), .inc (.absy 0),
        .dec (.izy 0), .tsb (.zpx 0), .trb (.absx 0), .asl (.mem (.absy 0)), .ror (.mem (.izx 0)),
        .adc (.mem (.zpy 0)), .cmp (.mem (.zpy 0))] : List Instr),
      i.wf ⟨true, true⟩ = false := by decide

theorem test_wf_accepts_listed_forms :
    ∀ i ∈ ([.ldx (.mem (.zpy 0)), .ldy (.mem (.zpx 0)), .lda (.mem (.izp 0)), .sta (.absy 0), .stz (.absx 0),
        .bit (.absx 0), .tsb (.abs 0), .asl .acc, .brk 0, .bbs7 0 0, .unimpl 0x5C] : List Instr),
      i.wf ⟨true, true⟩ = true := by decide

/-- A vendor or pause instruction whose extension is off (R103). -/
theorem test_wf_refuses_gated :
    (Instr.rmb0 0).wf ⟨false, true⟩ = false ∧ (Instr.bbs7 0 0).wf ⟨false, true⟩ = false ∧
    Instr.wai.wf ⟨true, false⟩ = false ∧ Instr.stp.wf ⟨true, false⟩ = false := by decide

/-- `unimpl` of an opcode that is not on the unimplemented path (R104). -/
theorem test_wf_refuses_unimpl_of_implemented :
    (Instr.unimpl 0xEA).wf ⟨true, true⟩ = false ∧ (Instr.unimpl 0x07).wf ⟨true, true⟩ = false ∧
    (Instr.unimpl 0xCB).wf ⟨true, true⟩ = false ∧ (Instr.unimpl 0x07).wf ⟨false, true⟩ = true ∧
    (Instr.unimpl 0xCB).wf ⟨true, false⟩ = true := by decide

/-! ### Decode: a word for every constructor, its opcode written bit by bit from its rule's "Encoding:" line -/

theorem test_decode_loads_stores_transfers : decodesAll [
    ([0b10100001, 0x12], .lda (.mem (.izx 0x12))), ([0b10100110, 0x12], .ldx (.mem (.zp 0x12))),
    ([0b10101100, 0x12, 0x34], .ldy (.mem (.abs 0x3412))), ([0b10010001, 0x12], .sta (.izy 0x12)),
    ([0b10001110, 0x12, 0x34], .stx (.abs 0x3412)), ([0b10010100, 0x12], .sty (.zpx 0x12)),
    ([0b10011100, 0x12, 0x34], .stz (.abs 0x3412)), ([0b10101010], .tax), ([0b10101000], .tay),
    ([0b10001010], .txa), ([0b10011000], .tya), ([0b10111010], .tsx), ([0b10011010], .txs)] := by decide

theorem test_decode_alu : decodesAll [
    ([0b01110001, 0x12], .adc (.mem (.izy 0x12))), ([0b11110010, 0x12], .sbc (.mem (.izp 0x12))),
    ([0b00110101, 0x12], .and (.mem (.zpx 0x12))), ([0b00011001, 0x12, 0x34], .ora (.mem (.absy 0x3412))),
    ([0b01011101, 0x12, 0x34], .eor (.mem (.absx 0x3412))), ([0b11000001, 0x12], .cmp (.mem (.izx 0x12))),
    ([0b11100100, 0x12], .cpx (.mem (.zp 0x12))), ([0b11001100, 0x12, 0x34], .cpy (.mem (.abs 0x3412))),
    ([0b00101100, 0x12, 0x34], .bit (.abs 0x3412)), ([0b10001001, 0x12], .bitImm 0x12),
    ([0b11111110, 0x12, 0x34], .inc (.absx 0x3412)), ([0b00011010], .incA), ([0b11101000], .inx),
    ([0b11001000], .iny), ([0b11011110, 0x12, 0x34], .dec (.absx 0x3412)), ([0b00111010], .decA),
    ([0b11001010], .dex), ([0b10001000], .dey), ([0b00001100, 0x12, 0x34], .tsb (.abs 0x3412)),
    ([0b00010100, 0x12], .trb (.zp 0x12))] := by decide

theorem test_decode_shifts : decodesAll [
    ([0b00010110, 0x12], .asl (.mem (.zpx 0x12))), ([0b01011110, 0x12, 0x34], .lsr (.mem (.absx 0x3412))),
    ([0b00100110, 0x12], .rol (.mem (.zp 0x12))), ([0b01101010], .ror .acc)] := by decide

theorem test_decode_flags : decodesAll [
    ([0b00011000], .clc), ([0b00111000], .sec), ([0b01011000], .cli), ([0b01111000], .sei), ([0b11011000], .cld),
    ([0b11111000], .sed), ([0b10111000], .clv)] := by decide

theorem test_decode_stack : decodesAll [
    ([0b01001000], .pha), ([0b00001000], .php), ([0b11011010], .phx), ([0b01011010], .phy), ([0b01101000], .pla),
    ([0b00101000], .plp), ([0b11111010], .plx), ([0b01111010], .ply)] := by decide

theorem test_decode_control : decodesAll [
    ([0b00010000, 0x12], .bpl 0x12), ([0b00110000, 0x12], .bmi 0x12), ([0b01010000, 0x12], .bvc 0x12),
    ([0b01110000, 0x12], .bvs 0x12), ([0b10010000, 0x12], .bcc 0x12), ([0b10110000, 0x12], .bcs 0x12),
    ([0b11010000, 0x12], .bne 0x12), ([0b11110000, 0x12], .beq 0x12), ([0b10000000, 0x12], .bra 0x12),
    ([0b01001100, 0x12, 0x34], .jmp 0x3412), ([0b01101100, 0x12, 0x34], .jmpInd 0x3412),
    ([0b01111100, 0x12, 0x34], .jmpIax 0x3412), ([0b00100000, 0x12, 0x34], .jsr 0x3412), ([0b01100000], .rts),
    ([0b01000000], .rti), ([0b00000000, 0x12], .brk 0x12), ([0b11101010], .nop)] := by decide

theorem test_decode_vendor_bits : decodesAll [
    ([0b00000111, 0x12], .rmb0 0x12), ([0b00010111, 0x12], .rmb1 0x12), ([0b00100111, 0x12], .rmb2 0x12),
    ([0b00110111, 0x12], .rmb3 0x12), ([0b01000111, 0x12], .rmb4 0x12), ([0b01010111, 0x12], .rmb5 0x12),
    ([0b01100111, 0x12], .rmb6 0x12), ([0b01110111, 0x12], .rmb7 0x12), ([0b10000111, 0x12], .smb0 0x12),
    ([0b10010111, 0x12], .smb1 0x12), ([0b10100111, 0x12], .smb2 0x12), ([0b10110111, 0x12], .smb3 0x12),
    ([0b11000111, 0x12], .smb4 0x12), ([0b11010111, 0x12], .smb5 0x12), ([0b11100111, 0x12], .smb6 0x12),
    ([0b11110111, 0x12], .smb7 0x12), ([0b00001111, 0x12, 0x34], .bbr0 0x12 0x34),
    ([0b00011111, 0x12, 0x34], .bbr1 0x12 0x34), ([0b00101111, 0x12, 0x34], .bbr2 0x12 0x34),
    ([0b00111111, 0x12, 0x34], .bbr3 0x12 0x34), ([0b01001111, 0x12, 0x34], .bbr4 0x12 0x34),
    ([0b01011111, 0x12, 0x34], .bbr5 0x12 0x34), ([0b01101111, 0x12, 0x34], .bbr6 0x12 0x34),
    ([0b01111111, 0x12, 0x34], .bbr7 0x12 0x34), ([0b10001111, 0x12, 0x34], .bbs0 0x12 0x34),
    ([0b10011111, 0x12, 0x34], .bbs1 0x12 0x34), ([0b10101111, 0x12, 0x34], .bbs2 0x12 0x34),
    ([0b10111111, 0x12, 0x34], .bbs3 0x12 0x34), ([0b11001111, 0x12, 0x34], .bbs4 0x12 0x34),
    ([0b11011111, 0x12, 0x34], .bbs5 0x12 0x34), ([0b11101111, 0x12, 0x34], .bbs6 0x12 0x34),
    ([0b11111111, 0x12, 0x34], .bbs7 0x12 0x34)] := by decide

theorem test_decode_pause_and_unimplemented : decodesAll [
    ([0b11001011], .wai), ([0b11011011], .stp), ([0b00000011], .unimpl 0x03)] := by decide

theorem test_decode_rejects_short_lists :
    decode ⟨true, true⟩ [] = .error .noOpcode ∧ decode ⟨true, true⟩ [0x69] = .error (.missingOperand 0x69) ∧
    decode ⟨true, true⟩ [0x20, 0x00] = .error (.missingOperand 0x20) := by decide

/-- The ill-formed term has no bytes. -/
theorem test_encode_of_unlisted_form : encode (.ldx (.mem (.zpx 0))) = [] := by decide

/-! ### Operand forms (C.1, C.9) -/

/-- V-LST-3: zero page,X wraps within page 0. -/
theorem test_operand_zpx_wraps :
    (({ machine with x := 0x10 }).poke [(0x0008, 0x5A), (0x0108, 0xEE)]).operand (.mem (.zpx 0xF8)) = 0x5A := by decide

/-- V-LST-4 and V-LST-5: 16-bit indexing crosses pages and wraps at the top. -/
theorem test_operand_abs_indexed :
    (({ machine with x := 0x01 }).poke [(0x1300, 0x42)]).operand (.mem (.absx 0x12FF)) = 0x42 ∧
    (({ machine with y := 0xFF }).poke [(0x0000, 0x77)]).operand (.mem (.absy 0xFF01)) = 0x77 := by decide

/-- V-LST-6 and V-LST-8: (zp,X) and (zp). -/
theorem test_operand_indirect :
    (({ machine with x := 0x04 }).poke [(0x0025, 0x30), (0x3000, 0x99)]).operand (.mem (.izx 0x20)) = 0x99 ∧
    (machine.poke [(0x0040, 0xF0), (0x0041, 0x20), (0x20F0, 0xFF)]).operand (.mem (.izp 0x40)) = 0xFF := by decide

/-- The memory of V-ZPW-1 to V-ZPW-3. -/
def pointerMachine (wrap : Bool) : State :=
  ({ machine with cfg := { settings with zpPtrWrap := wrap } }).poke
    [(0x0000, 0x12), (0x0100, 0x34), (0x1200, 0xAA), (0x3400, 0xBB)]

/-- V-ZPW-1 and V-ZPW-2: the pointer at 0xFF under both values of P_ZP_PTR_WRAP. -/
theorem test_zp_pointer_at_page_end :
    (pointerMachine true).operand (.mem (.izy 0xFF)) = 0xAA ∧
    (pointerMachine false).operand (.mem (.izy 0xFF)) = 0xBB := by decide

/-- V-ZPW-3: JMP (abs) does not read the parameter. -/
theorem test_jmp_ind_ignores_zp_wrap :
    (pointerMachine true).indTarget 0x00FF = 0x3400 ∧ (pointerMachine false).indTarget 0x00FF = 0x3400 := by decide

/-! ### The adder primitives (C.2) -/

/-- V-ALU-1, V-ALU-2, V-ALU-3. -/
theorem test_addBin :
    addBin 0x7F 0x01 false = ⟨0x80, false, true⟩ ∧ addBin 0xFF 0x01 false = ⟨0x00, true, false⟩ ∧
    addBin 0x80 0x80 false = ⟨0x00, true, true⟩ := by decide

/-- V-ALU-8, V-ALU-9, V-ALU-10. -/
theorem test_subBin :
    subBin 0x00 0x01 true = ⟨0xFF, false, false⟩ ∧ subBin 0x80 0x01 true = ⟨0x7F, true, true⟩ ∧
    subBin 0x50 0x20 false = ⟨0x2F, true, false⟩ := by decide

/-- V-ALU-4 to V-ALU-7. -/
theorem test_addDec :
    addDec 0x09 0x01 false = ⟨0x10, false, false⟩ ∧ addDec 0x99 0x01 false = ⟨0x00, true, false⟩ ∧
    addDec 0x58 0x46 true = ⟨0x05, true, false⟩ ∧ addDec 0x50 0x50 false = ⟨0x00, true, false⟩ := by decide

/-- V-ALU-11, V-ALU-12, V-ALU-13. -/
theorem test_subDec :
    subDec 0x00 0x01 true = ⟨0x99, false, false⟩ ∧ subDec 0x46 0x12 true = ⟨0x34, true, false⟩ ∧
    subDec 0x40 0x13 false = ⟨0x26, true, false⟩ := by decide

/-- V-BCD-1: an invalid BCD operand completes, with five values drawn; A, C, Z, N and V are not looked at. -/
theorem test_invalid_bcd_completes :
    gives (({ machine with a := 0x0A, p := 0x38 }).place 0x0200 [0x69, 0x01]) (fun t =>
      t.pc == 0x0202 && t.draws == 5 && t.sp == 0xFF) = true := by decide

/-! ### Loads, stores, transfers (95_test_vectors.md C.1) -/

/-- V-LST-1. -/
theorem test_lda_sets_zero : lands (machine.place 0x0200 [0xA9, 0x00])
    (fun s => { s with pc := 0x0202, p := 0x32 }) := by decide

/-- V-LST-7. -/
theorem test_lda_izy :
    lands ((({ machine with y := 0x20 }).poke [(0x0040, 0xF0), (0x0041, 0x20), (0x2110, 0x01)]).place 0x0200 [0xB1, 0x40])
    (fun s => { s with a := 0x01, pc := 0x0202, p := 0x30 }) := by decide

/-- V-LST-9. -/
theorem test_ldx_zpy_wraps : lands ((({ machine with y := 0x01 }).poke [(0x0000, 0x00)]).place 0x0200 [0xB6, 0xFF])
    (fun s => { s with pc := 0x0202, p := 0x32 }) := by decide

/-- V-LST-10. -/
theorem test_ldy : lands (machine.place 0x0200 [0xA0, 0x7F])
    (fun s => { s with y := 0x7F, pc := 0x0202, p := 0x30 }) := by decide

/-- V-LST-12. -/
theorem test_sta_izy :
    lands ((({ machine with a := 0x11, y := 0x10 }).poke [(0x0040, 0xF8), (0x0041, 0x20)]).place 0x0200 [0x91, 0x40])
    (fun s => { s.poke [(0x2108, 0x11)] with pc := 0x0202, p := 0x30 }) := by decide

/-- V-LST-22. -/
theorem test_sta_absx_wraps : lands (({ machine with a := 0xAB, x := 0xFF }).place 0x0200 [0x9D, 0x01, 0xFF])
    (fun s => { s.poke [(0x0000, 0xAB)] with pc := 0x0203, p := 0x30 }) := by decide

/-- V-LST-13. -/
theorem test_stx_zpy_wraps : lands (({ machine with x := 0x33, y := 0x05 }).place 0x0200 [0x96, 0xFE])
    (fun s => { s.poke [(0x0003, 0x33)] with pc := 0x0202, p := 0x30 }) := by decide

/-- V-LST-14. -/
theorem test_sty_zpx_wraps : lands (({ machine with y := 0x44, x := 0x02 }).place 0x0200 [0x94, 0xFF])
    (fun s => { s.poke [(0x0001, 0x44)] with pc := 0x0202, p := 0x30 }) := by decide

/-- V-LST-15. -/
theorem test_stz : lands ((({ machine with a := 0xFF }).poke [(0x0400, 0x12)]).place 0x0200 [0x9C, 0x00, 0x04])
    (fun s => { s.poke [(0x0400, 0x00)] with pc := 0x0203, p := 0x30 }) := by decide

/-- V-LST-16. -/
theorem test_tax : lands (({ machine with a := 0x80 }).place 0x0200 [0xAA])
    (fun s => { s with x := 0x80, pc := 0x0201, p := 0xB0 }) := by decide

/-- V-LST-17. -/
theorem test_tay : lands (({ machine with a := 0x00, y := 0x05 }).place 0x0200 [0xA8])
    (fun s => { s with y := 0x00, pc := 0x0201, p := 0x32 }) := by decide

/-- V-LST-18. -/
theorem test_txa : lands (({ machine with x := 0x01 }).place 0x0200 [0x8A])
    (fun s => { s with a := 0x01, pc := 0x0201, p := 0x30 }) := by decide

/-- V-LST-19. -/
theorem test_tya : lands (({ machine with y := 0xF0 }).place 0x0200 [0x98])
    (fun s => { s with a := 0xF0, pc := 0x0201, p := 0xB0 }) := by decide

/-- V-LST-20. -/
theorem test_tsx : lands (({ machine with sp := 0x00 }).place 0x0200 [0xBA])
    (fun s => { s with pc := 0x0201, p := 0x32 }) := by decide

/-- V-LST-21. -/
theorem test_txs_no_flag : lands (({ machine with x := 0x00, p := 0x32 }).place 0x0200 [0x9A])
    (fun s => { s with sp := 0x00, pc := 0x0201, p := 0x32 }) := by decide

/-! ### Arithmetic and logic (C.2) -/

/-- V-ALU-3. -/
theorem test_adc_carry_and_overflow : lands (({ machine with a := 0x80, p := 0x30 }).place 0x0200 [0x69, 0x80])
    (fun s => { s with a := 0x00, pc := 0x0202, p := 0x73 }) := by decide

/-- V-ALU-6. -/
theorem test_adc_decimal : lands (({ machine with a := 0x58, p := 0x39 }).place 0x0200 [0x69, 0x46])
    (fun s => { s with a := 0x05, pc := 0x0202, p := 0x39 }) := by decide

/-- V-ALU-9. -/
theorem test_sbc_overflow : lands (({ machine with a := 0x80, p := 0x31 }).place 0x0200 [0xE9, 0x01])
    (fun s => { s with a := 0x7F, pc := 0x0202, p := 0x71 }) := by decide

/-- V-ALU-11. -/
theorem test_sbc_decimal_borrow : lands (({ machine with a := 0x00, p := 0x39 }).place 0x0200 [0xE9, 0x01])
    (fun s => { s with a := 0x99, pc := 0x0202, p := 0xB8 }) := by decide

/-- V-ALU-14. -/
theorem test_and : lands (({ machine with a := 0xF0 }).place 0x0200 [0x29, 0x0F])
    (fun s => { s with a := 0x00, pc := 0x0202, p := 0x32 }) := by decide

/-- V-ALU-15. -/
theorem test_ora : lands (({ machine with a := 0x01 }).place 0x0200 [0x09, 0x80])
    (fun s => { s with a := 0x81, pc := 0x0202, p := 0xB0 }) := by decide

/-- V-ALU-16. -/
theorem test_eor : lands (({ machine with a := 0xFF }).place 0x0200 [0x49, 0xFF])
    (fun s => { s with a := 0x00, pc := 0x0202, p := 0x32 }) := by decide

/-- V-ALU-17. -/
theorem test_cmp_equal : lands (({ machine with a := 0x40 }).place 0x0200 [0xC9, 0x40])
    (fun s => { s with pc := 0x0202, p := 0x33 }) := by decide

/-- V-ALU-18. -/
theorem test_cmp_below : lands (({ machine with a := 0x40 }).place 0x0200 [0xC9, 0x41])
    (fun s => { s with pc := 0x0202, p := 0xB0 }) := by decide

/-- V-ALU-19. -/
theorem test_cpx : lands (({ machine with x := 0x00 }).place 0x0200 [0xE0, 0x80])
    (fun s => { s with pc := 0x0202, p := 0xB0 }) := by decide

/-- V-ALU-20. -/
theorem test_cpy : lands (({ machine with y := 0xFF }).place 0x0200 [0xC0, 0x00])
    (fun s => { s with pc := 0x0202, p := 0xB1 }) := by decide

/-- V-ALU-21. -/
theorem test_bit : lands ((({ machine with a := 0x01 }).poke [(0x0010, 0xC0)]).place 0x0200 [0x24, 0x10])
    (fun s => { s with pc := 0x0202, p := 0xF2 }) := by decide

/-- V-ALU-22. -/
theorem test_bitImm_keeps_nv : lands (({ machine with a := 0x0F, p := 0xF0 }).place 0x0200 [0x89, 0xF0])
    (fun s => { s with pc := 0x0202, p := 0xF2 }) := by decide

/-- V-ALU-23. -/
theorem test_inc_wraps : lands ((machine.poke [(0x0010, 0xFF)]).place 0x0200 [0xE6, 0x10])
    (fun s => { s.poke [(0x0010, 0x00)] with pc := 0x0202, p := 0x32 }) := by decide

/-- V-ALU-24. -/
theorem test_incA : lands (({ machine with a := 0x7F }).place 0x0200 [0x1A])
    (fun s => { s with a := 0x80, pc := 0x0201, p := 0xB0 }) := by decide

/-- V-ALU-25. -/
theorem test_inx_wraps : lands (({ machine with x := 0xFF }).place 0x0200 [0xE8])
    (fun s => { s with x := 0x00, pc := 0x0201, p := 0x32 }) := by decide

/-- V-ALU-26. -/
theorem test_iny : lands (({ machine with y := 0x7F }).place 0x0200 [0xC8])
    (fun s => { s with y := 0x80, pc := 0x0201, p := 0xB0 }) := by decide

/-- V-ALU-27. -/
theorem test_dec_wraps : lands ((machine.poke [(0x0300, 0x00)]).place 0x0200 [0xCE, 0x00, 0x03])
    (fun s => { s.poke [(0x0300, 0xFF)] with pc := 0x0203, p := 0xB0 }) := by decide

/-- V-ALU-28. -/
theorem test_decA : lands (({ machine with a := 0x01 }).place 0x0200 [0x3A])
    (fun s => { s with a := 0x00, pc := 0x0201, p := 0x32 }) := by decide

/-- V-ALU-29. -/
theorem test_dex_wraps : lands (({ machine with x := 0x00 }).place 0x0200 [0xCA])
    (fun s => { s with x := 0xFF, pc := 0x0201, p := 0xB0 }) := by decide

/-- V-ALU-30. -/
theorem test_dey : lands (({ machine with y := 0x80 }).place 0x0200 [0x88])
    (fun s => { s with y := 0x7F, pc := 0x0201, p := 0x30 }) := by decide

/-- V-ALU-31. -/
theorem test_tsb : lands ((({ machine with a := 0x81 }).poke [(0x0010, 0x01)]).place 0x0200 [0x04, 0x10])
    (fun s => { s.poke [(0x0010, 0x81)] with pc := 0x0202, p := 0x30 }) := by decide

/-- V-ALU-32. -/
theorem test_trb : lands ((({ machine with a := 0x81 }).poke [(0x0010, 0x01)]).place 0x0200 [0x14, 0x10])
    (fun s => { s.poke [(0x0010, 0x00)] with pc := 0x0202, p := 0x30 }) := by decide

/-- V-ALU-33. -/
theorem test_trb_zero : lands ((({ machine with a := 0x0F }).poke [(0x0300, 0xF0)]).place 0x0200 [0x1C, 0x00, 0x03])
    (fun s => { s with pc := 0x0203, p := 0x32 }) := by decide

/-! ### Shifts and rotates (C.3) -/

/-- V-SHR-1. -/
theorem test_asl_acc : lands (({ machine with a := 0x80 }).place 0x0200 [0x0A])
    (fun s => { s with a := 0x00, pc := 0x0201, p := 0x33 }) := by decide

/-- V-SHR-3. -/
theorem test_asl_zp : lands ((machine.poke [(0x0010, 0xC1)]).place 0x0200 [0x06, 0x10])
    (fun s => { s.poke [(0x0010, 0x82)] with pc := 0x0202, p := 0xB1 }) := by decide

/-- V-SHR-4. -/
theorem test_lsr_acc : lands (({ machine with a := 0x01 }).place 0x0200 [0x4A])
    (fun s => { s with a := 0x00, pc := 0x0201, p := 0x33 }) := by decide

/-- V-SHR-5. -/
theorem test_lsr_clears_n : lands (({ machine with a := 0xFF, p := 0xB0 }).place 0x0200 [0x4A])
    (fun s => { s with a := 0x7F, pc := 0x0201, p := 0x31 }) := by decide

/-- V-SHR-6. -/
theorem test_rol_acc : lands (({ machine with a := 0x80, p := 0x30 }).place 0x0200 [0x2A])
    (fun s => { s with a := 0x00, pc := 0x0201, p := 0x33 }) := by decide

/-- V-SHR-7. -/
theorem test_rol_takes_carry : lands (({ machine with a := 0x40, p := 0x31 }).place 0x0200 [0x2A])
    (fun s => { s with a := 0x81, pc := 0x0201, p := 0xB0 }) := by decide

/-- V-SHR-8. -/
theorem test_ror_acc : lands (({ machine with a := 0x01, p := 0x30 }).place 0x0200 [0x6A])
    (fun s => { s with a := 0x00, pc := 0x0201, p := 0x33 }) := by decide

/-- V-SHR-10. -/
theorem test_ror_absx :
    lands ((({ machine with x := 0x01, p := 0x31 }).poke [(0x0300, 0x02)]).place 0x0200 [0x7E, 0xFF, 0x02])
    (fun s => { s.poke [(0x0300, 0x81)] with pc := 0x0203, p := 0xB0 }) := by decide

/-! ### Flags (C.4) -/

/-- V-FLG-1. -/
theorem test_clc : lands (({ machine with p := 0x31 }).place 0x0200 [0x18])
    (fun s => { s with pc := 0x0201, p := 0x30 }) := by decide

/-- V-FLG-2. -/
theorem test_sec : lands (({ machine with p := 0x30 }).place 0x0200 [0x38])
    (fun s => { s with pc := 0x0201, p := 0x31 }) := by decide

/-- V-FLG-3. -/
theorem test_cli : lands (({ machine with p := 0x34 }).place 0x0200 [0x58])
    (fun s => { s with pc := 0x0201, p := 0x30 }) := by decide

/-- V-FLG-4. -/
theorem test_sei : lands (({ machine with p := 0x30 }).place 0x0200 [0x78])
    (fun s => { s with pc := 0x0201, p := 0x34 }) := by decide

/-- V-FLG-5. -/
theorem test_cld : lands (({ machine with p := 0x38 }).place 0x0200 [0xD8])
    (fun s => { s with pc := 0x0201, p := 0x30 }) := by decide

/-- V-FLG-6. -/
theorem test_sed : lands (({ machine with p := 0x30 }).place 0x0200 [0xF8])
    (fun s => { s with pc := 0x0201, p := 0x38 }) := by decide

/-- V-FLG-7. -/
theorem test_clv : lands (({ machine with p := 0x70 }).place 0x0200 [0xB8])
    (fun s => { s with pc := 0x0201, p := 0x30 }) := by decide

/-! ### Stack (C.5) -/

/-- V-STK-1. -/
theorem test_pha : lands (({ machine with a := 0x5A, sp := 0xFF }).place 0x0200 [0x48])
    (fun s => { s.poke [(0x01FF, 0x5A)] with sp := 0xFE, pc := 0x0201, p := 0x30 }) := by decide

/-- V-STK-2. -/
theorem test_pha_wraps : lands (({ machine with a := 0x5A, sp := 0x00 }).place 0x0200 [0x48])
    (fun s => { s.poke [(0x0100, 0x5A)] with sp := 0xFF, pc := 0x0201, p := 0x30 }) := by decide

/-- V-STK-3. -/
theorem test_php : lands (({ machine with p := 0x31, sp := 0xFF }).place 0x0200 [0x08])
    (fun s => { s.poke [(0x01FF, 0x31)] with sp := 0xFE, pc := 0x0201, p := 0x31 }) := by decide

/-- V-STK-4. -/
theorem test_phx : lands (({ machine with x := 0x01, sp := 0xF0 }).place 0x0200 [0xDA])
    (fun s => { s.poke [(0x01F0, 0x01)] with sp := 0xEF, pc := 0x0201, p := 0x30 }) := by decide

/-- V-STK-5. -/
theorem test_phy_wraps : lands (({ machine with y := 0x02, sp := 0x00 }).place 0x0200 [0x5A])
    (fun s => { s.poke [(0x0100, 0x02)] with sp := 0xFF, pc := 0x0201, p := 0x30 }) := by decide

/-- V-STK-6. -/
theorem test_pla : lands ((({ machine with sp := 0xFE }).poke [(0x01FF, 0x00)]).place 0x0200 [0x68])
    (fun s => { s with sp := 0xFF, pc := 0x0201, p := 0x32 }) := by decide

/-- V-STK-7. -/
theorem test_pla_wraps : lands ((({ machine with sp := 0xFF }).poke [(0x0100, 0x80)]).place 0x0200 [0x68])
    (fun s => { s with a := 0x80, sp := 0x00, pc := 0x0201, p := 0xB0 }) := by decide

/-- V-STK-8. -/
theorem test_plp : lands ((({ machine with sp := 0xFE }).poke [(0x01FF, 0xC3)]).place 0x0200 [0x28])
    (fun s => { s with sp := 0xFF, pc := 0x0201, p := 0xF3 }) := by decide

/-- V-STK-9. -/
theorem test_plp_forces_bu : lands ((({ machine with sp := 0xFE }).poke [(0x01FF, 0x00)]).place 0x0200 [0x28])
    (fun s => { s with sp := 0xFF, pc := 0x0201, p := 0x30 }) := by decide

/-- V-STK-10. -/
theorem test_plx : lands ((({ machine with sp := 0xFE }).poke [(0x01FF, 0x80)]).place 0x0200 [0xFA])
    (fun s => { s with x := 0x80, sp := 0xFF, pc := 0x0201, p := 0xB0 }) := by decide

/-- V-STK-11. -/
theorem test_ply : lands ((({ machine with sp := 0xFE }).poke [(0x01FF, 0x01)]).place 0x0200 [0x7A])
    (fun s => { s with y := 0x01, sp := 0xFF, pc := 0x0201, p := 0x30 }) := by decide

/-! ### Control transfer (C.6) -/

/-- V-CTL-1. -/
theorem test_bpl : lands (({ machine with p := 0x30 }).place 0x0200 [0x10, 0x04])
    (fun s => { s with pc := 0x0206, p := 0x30 }) := by decide

/-- V-CTL-2. -/
theorem test_bmi_back : lands (({ machine with p := 0xB0 }).place 0x0200 [0x30, 0xFC])
    (fun s => { s with pc := 0x01FE, p := 0xB0 }) := by decide

/-- V-CTL-3. -/
theorem test_bvc_not_taken : lands (({ machine with p := 0x70 }).place 0x0200 [0x50, 0x10])
    (fun s => { s with pc := 0x0202, p := 0x70 }) := by decide

/-- V-CTL-4. -/
theorem test_bvs : lands (({ machine with p := 0x70 }).place 0x0200 [0x70, 0x10])
    (fun s => { s with pc := 0x0212, p := 0x70 }) := by decide

/-- V-CTL-5. -/
theorem test_bcc_wraps : lands (({ machine with p := 0x30 }).place 0xFFF0 [0x90, 0x7F])
    (fun s => { s with pc := 0x0071, p := 0x30 }) := by decide

/-- V-CTL-6. -/
theorem test_bcs_most_back : lands (({ machine with p := 0x31 }).place 0x0200 [0xB0, 0x80])
    (fun s => { s with pc := 0x0182, p := 0x31 }) := by decide

/-- V-CTL-7. -/
theorem test_bne_to_itself : lands (({ machine with p := 0x30 }).place 0x0200 [0xD0, 0xFE])
    (fun s => { s with pc := 0x0200, p := 0x30 }) := by decide

/-- V-CTL-8. -/
theorem test_beq_not_taken : lands (({ machine with p := 0x30 }).place 0x0200 [0xF0, 0x05])
    (fun s => { s with pc := 0x0202, p := 0x30 }) := by decide

/-- V-CTL-9. -/
theorem test_beq_offset_zero : lands (({ machine with p := 0x32 }).place 0x0200 [0xF0, 0x00])
    (fun s => { s with pc := 0x0202, p := 0x32 }) := by decide

/-- V-CTL-10. -/
theorem test_bra : lands (machine.place 0x0200 [0x80, 0x02])
    (fun s => { s with pc := 0x0204, p := 0x30 }) := by decide

/-- V-CTL-11. -/
theorem test_jmp : lands (machine.place 0x0200 [0x4C, 0x00, 0x80])
    (fun s => { s with pc := 0x8000, p := 0x30 }) := by decide

/-- V-CTL-12. -/
theorem test_jmpInd_page_end :
    lands ((machine.poke [(0x1200, 0x55), (0x12FF, 0x00), (0x1300, 0x90)]).place 0x0200 [0x6C, 0xFF, 0x12])
    (fun s => { s with pc := 0x9000, p := 0x30 }) := by decide

/-- V-CTL-13. -/
theorem test_jmpIax :
    lands ((({ machine with x := 0x02 }).poke [(0x3002, 0x34), (0x3003, 0x12)]).place 0x0200 [0x7C, 0x00, 0x30])
    (fun s => { s with pc := 0x1234, p := 0x30 }) := by decide

/-- V-CTL-14. -/
theorem test_jsr : lands (({ machine with sp := 0xFF }).place 0x0300 [0x20, 0x00, 0x04])
    (fun s => { s.poke [(0x01FE, 0x02), (0x01FF, 0x03)] with sp := 0xFD, pc := 0x0400, p := 0x30 }) := by decide

/-- V-CTL-15. -/
theorem test_rts : lands ((({ machine with sp := 0xFD }).poke [(0x01FE, 0x02), (0x01FF, 0x03)]).place 0x0200 [0x60])
    (fun s => { s with sp := 0xFF, pc := 0x0303, p := 0x30 }) := by decide

/-- V-CTL-16. -/
theorem test_rts_wraps :
    lands ((({ machine with sp := 0xFD }).poke [(0x01FE, 0xFF), (0x01FF, 0xFF)]).place 0x0200 [0x60])
    (fun s => { s with sp := 0xFF, pc := 0x0000, p := 0x30 }) := by decide

/-- V-CTL-17. -/
theorem test_rti :
    lands ((({ machine with sp := 0xFC, p := 0x34 }).poke [(0x01FD, 0x20), (0x01FE, 0x00), (0x01FF, 0x03)]).place 0x0200 [0x40])
    (fun s => { s with sp := 0xFF, pc := 0x0300, p := 0x30 }) := by decide

/-- V-CTL-18. -/
theorem test_brk :
    lands ((({ machine with sp := 0xFF, p := 0x38 }).poke [(0xFFFE, 0x00), (0xFFFF, 0x90)]).place 0x0300 [0x00, 0xEA])
    (fun s => { s.poke [(0x01FD, 0x38), (0x01FE, 0x02), (0x01FF, 0x03)] with sp := 0xFC, pc := 0x9000, p := 0x34 }) := by decide

/-- V-CTL-19. -/
theorem test_nop : lands (machine.place 0x0200 [0xEA])
    (fun s => { s with pc := 0x0201, p := 0x30 }) := by decide

/-! ### Vendor bit instructions (C.7) -/

/-- V-VEN-1. -/
theorem test_rmb3 : lands ((machine.poke [(0x0010, 0xFF)]).place 0x0200 [0x37, 0x10])
    (fun s => { s.poke [(0x0010, 0xF7)] with pc := 0x0202, p := 0x30 }) := by decide

/-- V-VEN-2. -/
theorem test_smb7 : lands ((machine.poke [(0x0080, 0x00)]).place 0x0200 [0xF7, 0x80])
    (fun s => { s.poke [(0x0080, 0x80)] with pc := 0x0202, p := 0x30 }) := by decide

/-- V-VEN-3. -/
theorem test_bbr0_taken : lands ((machine.poke [(0x0012, 0xFE)]).place 0x0400 [0x0F, 0x12, 0x05])
    (fun s => { s with pc := 0x0408, p := 0x30 }) := by decide

/-- V-VEN-4. -/
theorem test_bbr0_not_taken : lands ((machine.poke [(0x0012, 0x01)]).place 0x0400 [0x0F, 0x12, 0x05])
    (fun s => { s with pc := 0x0403, p := 0x30 }) := by decide

/-- V-VEN-5. -/
theorem test_bbs7_back : lands ((machine.poke [(0x0020, 0x80)]).place 0x0400 [0xFF, 0x20, 0xF0])
    (fun s => { s with pc := 0x03F3, p := 0x30 }) := by decide

/-- V-VEN-6. -/
theorem test_bbs3_not_taken : lands ((machine.poke [(0x0020, 0x80)]).place 0x0400 [0xBF, 0x20, 0xF0])
    (fun s => { s with pc := 0x0403, p := 0x30 }) := by decide

/-! ### The unimplemented path and the pause opcodes (C.7, C.8) -/

/-- V-VEN-7. -/
theorem test_vendor_gated :
    lands ((({ machine with cfg := { settings with vendorExt := false } }).poke [(0x0010, 0xFF)]).place 0x0200 [0x37, 0x10])
    (fun s => { s with pc := 0x0201, p := 0x30, engine := .faulted 0x0200 0x37 }) := by decide

/-- V-PAU-1. -/
theorem test_wai : lands (machine.place 0x0300 [0xCB])
    (fun s => { s with pc := 0x0301, p := 0x30, engine := .paused }) := by decide

/-- V-PAU-2. -/
theorem test_stp : lands (machine.place 0x0300 [0xDB])
    (fun s => { s with pc := 0x0301, p := 0x30, engine := .paused }) := by decide

/-- V-PAU-3. -/
theorem test_wai_gated : lands (({ machine with cfg := { settings with pauseExt := false } }).place 0x0300 [0xCB])
    (fun s => { s with pc := 0x0301, p := 0x30, engine := .faulted 0x0300 0xCB }) := by decide

/-- V-UNI-1. -/
theorem test_unimpl_faults : lands (({ machine with a := 0x12 }).place 0x0300 [0x03])
    (fun s => { s with pc := 0x0301, p := 0x30, engine := .faulted 0x0300 0x03 }) := by decide

/-- V-UNI-4. -/
theorem test_unimpl_faults_at_top : lands (machine.place 0xFFFF [0x44, 0x01, 0x02])
    (fun s => { s with pc := 0x0000, p := 0x30, engine := .faulted 0xFFFF 0x44 }) := by decide

/-- V-VEN-8, V-UNI-2, V-UNI-3: Nop moves pc alone, by P_UNIMPL_LEN, which the operation takes as an argument. -/
theorem test_unimpl_skips :
    (machine.skipUnimpl 0x0200 2).pc = 0x0202 ∧ (machine.skipUnimpl 0x0300 1).pc = 0x0301 ∧
    (machine.skipUnimpl 0x0300 3).pc = 0x0303 := by decide

/-- V-FLT-1: no step of the core in Faulted; a line step still acts. -/
theorem test_faulted_has_no_step :
    lands { machine with engine := .faulted 0x0300 0x03, irqAsserted := true } id ∧
    givesTwo { machine with engine := .faulted 0x0300 0x03, schedule := [.core, .host .irqLow, .core] } (fun t =>
      t == { machine with
        engine := .faulted 0x0300 0x03, irqAsserted := true, reply := .done, schedule := [.core] }) = true := by decide

/-- R341 and R358: the record of a Faulted core, and `turn_off` after a core turn that made no step. -/
theorem test_faulted_record_and_turn_off :
    ({ machine with engine := .faulted 0x0300 0x03 }).faultRecord = some (.unimplementedInstruction 0x0300 0x03) ∧
    machine.faultRecord = none ∧
    givesTwo { machine with engine := .faulted 0x0300 0x03, schedule := [.core, .host .turnOff] } (fun t =>
      t.engine == .off && t.sp == 0) = true := by decide

/-! ### Interrupts, reset and the engine (C.10) -/

/-- V-INT-1, its last core step: WaitingForReset with the reset latched. -/
theorem test_boot_step :
    gives (({ machine with sp := 0, engine := .waitingForReset, resetPending := true }).poke
        [(0xFFFC, 0x00), (0xFFFD, 0x04), (0x0400, 0xA9), (0x0401, 0x00)]) (fun t =>
      t.engine == .running && t.a == 0 && t.sp == 0 && t.p == 0x32 && t.pc == 0x0402 && !t.resetPending) = true := by
  decide

/-- The interrupted program of V-INT-2 to V-INT-6. -/
def interrupted : State :=
  ({ machine with p := 0x39, pc := 0x0300 }).poke
    [(0x0300, 0xEA), (0xFFFF, 0x90), (0x9000, 0xEA), (0xFFFB, 0x06), (0x0600, 0xEA), (0xFFFD, 0x04), (0x0400, 0xEA)]

/-- V-INT-2: `irq_low`, then the iteration that services it. -/
theorem test_irq_service :
    givesTwo { interrupted with schedule := [.host .irqLow] } (fun t =>
      t.read 0x01FF == 0x03 && t.read 0x01FE == 0x00 && t.read 0x01FD == 0x29 && t.p == 0x35 && t.pc == 0x9001 &&
      t.sp == 0xFC && t.irqAsserted) = true := by decide

/-- V-INT-3: I = 1 masks. -/
theorem test_irq_masked :
    givesTwo { interrupted with p := 0x34, schedule := [.host .irqLow] } (fun t =>
      t.pc == 0x0301 && t.sp == 0xFF && t.p == 0x34) = true := by decide

/-- V-INT-4: the iteration that services a latched NMI, P_NMI_MASKS = false and P_NMI_PUSH_B = 0. -/
theorem test_nmi_service :
    gives { interrupted with nmiPending := true } (fun t =>
      t.read 0x01FF == 0x03 && t.read 0x01FE == 0x00 && t.read 0x01FD == 0x29 && t.p == 0x39 && t.pc == 0x0601 &&
      t.sp == 0xFC && !t.nmiPending) = true := by decide

/-- V-INT-5: as V-INT-4 with both parameters true. -/
theorem test_nmi_service_masking :
    gives { interrupted with nmiPending := true, cfg := { settings with nmiMasks := true, nmiPushB := true } } (fun t =>
      t.read 0x01FD == 0x39 && t.p == 0x35 && t.pc == 0x0601 && t.sp == 0xFC) = true := by decide

/-- V-INT-4 and V-INT-6: a falling edge latches, a low line does not. -/
theorem test_nmi_edge :
    givesTwo { interrupted with schedule := [.host .nmiHigh, .host .nmiLow] } (fun t => t.nmiPending) = true ∧
    gives { interrupted with schedule := [.host .nmiLow] } (fun t => !t.nmiPending) = true := by decide

/-- V-INT-7, its second core step: the IRQ is serviced right after CLI. -/
theorem test_cli_acts_at_next_check :
    givesTwo (({ machine with p := 0x34, irqAsserted := true }).poke [(0xFFFF, 0x90), (0x9000, 0xEA)]
        |>.place 0x0200 [0x58, 0xEA]) (fun t =>
      t.read 0x01FF == 0x02 && t.read 0x01FE == 0x01 && t.read 0x01FD == 0x20 && t.p == 0x34 && t.pc == 0x9001) = true := by
  decide

/-- V-INT-8: no step while the reset line is low. -/
theorem test_reset_line_low_spins :
    givesTwo { interrupted with schedule := [.host .resetLow] } (fun t =>
      t == { interrupted with resetLineHigh := false, reply := .done }) = true := by decide

/-- V-INT-9 and V-INT-10: reset during a run, under both values of P_RESET_MASKS. -/
theorem test_reset_during_run :
    gives { interrupted with a := 0x12, sp := 0x80, p := 0x3D, resetPending := true } (fun t =>
      t.pc == 0x0401 && t.a == 0x12 && t.sp == 0x80 && t.p == 0x3D && !t.resetPending) = true ∧
    gives { interrupted with resetPending := true, cfg := { settings with resetMasks := true } } (fun t =>
      t.p == 0x35 && t.pc == 0x0401) = true := by decide

/-- V-PRIO, the first core step: reset first, and it discards the NMI. -/
theorem test_priority_reset_first :
    gives { interrupted with sp := 0, p := 0x30, resetPending := true, nmiPending := true, irqAsserted := true } (fun t =>
      t.pc == 0x0401 && t.sp == 0 && !t.resetPending && !t.nmiPending && t.irqAsserted) = true := by decide

/-- V-PRIO, the second core step: IRQ service with S = 0x00 wraps inside page 1. -/
theorem test_priority_irq_next :
    gives (({ machine with sp := 0, irqAsserted := true }).poke [(0xFFFF, 0x05), (0x0500, 0xEA)]
        |>.place 0x0401 [0xEA]) (fun t =>
      t.read 0x0100 == 0x04 && t.read 0x01FF == 0x01 && t.read 0x01FE == 0x20 && t.sp == 0xFD && t.p == 0x34 &&
      t.pc == 0x0501) = true := by decide

/-- V-WAI-1 (program P6): C 3 makes no step; C 4 wakes, services the IRQ and pushes the address after WAI. -/
theorem test_paused_wakes :
    lands { machine with engine := .paused, pc := 0x0402 } id ∧
    gives (({ machine with sp := 0, engine := .paused, irqAsserted := true, pc := 0x0402 }).poke
        [(0xFFFF, 0x05), (0x0500, 0xE6), (0x0501, 0x70)]) (fun t =>
      t.read 0x0100 == 0x04 && t.read 0x01FF == 0x02 && t.read 0x01FE == 0x20 && t.sp == 0xFD && t.p == 0x34 &&
      t.read 0x0070 == 0x01 && t.pc == 0x0502 && t.engine == .running) = true := by decide

/-- V-OFF-1: `turn_off`, then `turn_on`. -/
theorem test_turn_off :
    gives { interrupted with irqAsserted := true, schedule := [.host .turnOff] } (fun t =>
      t == { State.powerOn with p := 0, cfg := settings, mem := interrupted.mem, reply := .done }) = true ∧
    givesTwo { interrupted with schedule := [.host .turnOff, .host .turnOn] } (fun t =>
      t.p == 0x30 && t.engine == .waitingForReset) = true := by decide

/-- V-MIS-1 and V-MIS-2: misuse changes nothing of the core. -/
theorem test_misuse :
    lands { machine with schedule := [.host .turnOn] } (fun _ => { machine with reply := .misuse }) ∧
    lands { State.powerOn with cfg := settings, schedule := [.host .turnOff] } (fun _ =>
      { State.powerOn with cfg := settings, reply := .misuse }) := by decide

/-! ### Timing, non-normative (C.11) -/

/-- V-TIM-1, V-TIM-2, V-TIM-3. -/
theorem test_cycles :
    ({ machine with x := 0x01 }).cycles (.lda (.mem (.absx 0x12FF))) = 5 ∧
    machine.cycles (.lda (.mem (.absx 0x12FF))) = 4 ∧
    ({ machine with pc := 0x02FF }).cycles (.bne 0x05) = 4 ∧ ({ machine with pc := 0x0202 }).cycles (.bne 0x05) = 3 ∧
    ({ machine with pc := 0x0202, p := 0x32 }).cycles (.bne 0x05) = 2 ∧
    ({ machine with p := 0x38 }).cycles (.adc (.imm 0x01)) = 3 ∧ machine.cycles (.adc (.imm 0x01)) = 2 := by decide

/-! ### The table's words, placed and run as the first instruction after reset -/

theorem test_table_words :
    decodeTableWord 8 0xA9 = some (.lda (.imm 0)) ∧ decodeTableWord 8 0x6C = some (.jmpInd 0) ∧
    decodeTableWord 8 0x03 = some (.unimpl 0x03) ∧ decodeTableWord 24 0x341220 = some (.jsr 0x3412) := by decide

/-- BRK, DEX and STP run from reset in the very next step. -/
theorem test_fetch_word_runs :
    gives (State.reset.withFetchWord 8 0x00) (fun t => t.sp == 0xFD && t.read 0x01FF == 0x02 && t.read 0x01FE == 0x30) = true ∧
    gives (State.reset.withFetchWord 8 0xCA) (fun t => t.x == 0xFF && t.pc == 0x0001) = true ∧
    gives (State.reset.withFetchWord 8 0xDB) (fun t => t.engine == .paused) = true := by decide

/-! ### Witnesses: a state and operands that meet the hypotheses of each statement that has some -/

theorem test_witness_EncodeThenDecodeGivesInstruction :
    (Instr.lda (.mem (.izy 0xFF))).wf ⟨false, false⟩ = true ∧ (Instr.bbs7 0xFF 0x80).wf ⟨true, false⟩ = true ∧
    Instr.stp.wf ⟨false, true⟩ = true ∧ (Instr.unimpl 0xFF).wf ⟨false, true⟩ = true := by decide

theorem test_witness_DecodedInstructionReencodes :
    decode ⟨true, true⟩ [0x7C, 0xFF, 0xFF, 0xEA] = .ok (.jmpIax 0xFFFF) [0xEA] ∧
    decode ⟨false, true⟩ [0x37] = .ok (.unimpl 0x37) [] := by decide

theorem test_witness_WordReadIsLittleEndian :
    (0x0000 : Word).toNat = ((0xFFFF : Word).toNat + 1) % 65536 ∧
    (0x0100 : Word).toNat = ((0x00FF : Word).toNat + 1) % 65536 := by decide

/-- The high byte of a pointer at 0xFE, and at 0xFF under both values of the parameter; an (zp,X) pointer that wraps. -/
theorem test_witness_EffectiveAddressOfEveryMode :
    (0x00FF : Word).toNat = (0xFE : Byte).toNat + 1 ∧
    (pointerMachine true).cfg.zpPtrWrap = true ∧ (0x0000 : Word).toNat = 0 ∧
    (pointerMachine false).cfg.zpPtrWrap = false ∧ (0x0100 : Word).toNat = 256 ∧
    (0x03 : Byte).toNat = ((0xF8 : Byte).toNat + ({ machine with x := 0x0B }).x.toNat) % 256 := by decide

theorem test_witness_AdcBinaryAddsWithSignedOverflow : machine.flag .d = false := by decide

theorem test_witness_SbcBinarySubtractsWithSignedOverflow :
    ({ machine with p := 0xF7 }).flag .d = false := by decide

/-- The largest BCD bytes. -/
theorem test_witness_AdcDecimalAddsBcd :
    ({ machine with a := 0x99, p := 0x38 }).flag .d = true ∧ isBcd ({ machine with a := 0x99 }).a ∧
    isBcd (machine.operand (.imm 0x99)) :=
  ⟨by decide, ⟨by decide, by decide⟩, ⟨by decide, by decide⟩⟩

theorem test_witness_SbcDecimalSubtractsBcd :
    ({ machine with a := 0x00, p := 0x39 }).flag .d = true ∧ isBcd ({ machine with a := 0x00 }).a ∧
    isBcd (machine.operand (.imm 0x90)) :=
  ⟨by decide, ⟨by decide, by decide⟩, ⟨by decide, by decide⟩⟩

/-- The first invalid digit in either place, of A and of the operand. -/
theorem test_witness_InvalidBcdDrawsFreeValues :
    ({ machine with a := 0x0A, p := 0x38 }).flag .d = true ∧
    ¬(isBcd 0x0A ∧ isBcd (machine.operand (.imm 0x01))) ∧ ¬(isBcd 0x09 ∧ isBcd (machine.operand (.imm 0xA0))) :=
  ⟨by decide, fun h => absurd h.1.2 (by decide), fun h => absurd h.2.1 (by decide)⟩

/-- S = 0xFF wraps to 0x00 and reads 0x0100. -/
theorem test_witness_PullsIncrementThenRead :
    (0x00 : Byte).toNat = (machine.sp.toNat + 1) % 256 ∧ (0x0100 : Word).toNat = 256 + (0x00 : Byte).toNat := by decide

theorem test_witness_PushesThenPullsReverse :
    (List.replicate 256 (0x5A : Byte)).length ≤ 256 := Nat.le_of_eq List.length_replicate

theorem test_witness_JumpsLoadPc :
    (0x0000 : Word).toNat = ((0xFFFF : Word).toNat + 1) % 65536 ∧
    (0x0001 : Word).toNat = ((0xFFFF : Word).toNat + ({ machine with x := 0x02 }).x.toNat) % 65536 ∧
    (0x0002 : Word).toNat = ((0x0001 : Word).toNat + 1) % 65536 := by decide

theorem test_witness_RtsPullsReturnAddress :
    (0x01FF : Word).toNat = 256 + (({ machine with sp := 0xFE }).sp + 1).toNat ∧
    (0x0100 : Word).toNat = 256 + (({ machine with sp := 0xFE }).sp + 2).toNat := by decide

theorem test_witness_RtiRestoresPAndPc :
    (0x01FF : Word).toNat = 256 + (({ machine with sp := 0xFE }).sp + 1).toNat ∧
    (0x0100 : Word).toNat = 256 + (({ machine with sp := 0xFE }).sp + 2).toNat ∧
    (0x0101 : Word).toNat = 256 + (({ machine with sp := 0xFE }).sp + 3).toNat := by decide

theorem test_witness_RtiResumesAfterIrq : machine.storedBU := ⟨by decide, by decide⟩

theorem test_witness_VendorBitWrites : (0x00FF : Word).toNat = (0xFF : Byte).toNat := by decide

theorem test_witness_VendorBitBranches : (0x0000 : Word).toNat = (0x00 : Byte).toNat := by decide

/-- An opcode at 0xFFFF, under each policy. -/
theorem test_witness_UnimplementedPathFaultsOrSkips :
    machine.pc.toNat = ((0xFFFF : Word).toNat + 1) % 65536 ∧ machine.cfg.unimplPolicy = .fail ∧
    ({ machine with cfg := { settings with unimplPolicy := .nop } }).cfg.unimplPolicy = .nop := by decide

/-- A state for each case of the selection. -/
theorem test_witness_AttendServicesTheHighest :
    ({ machine with resetPending := true, nmiPending := true }).resetPending = true ∧
    (machine.resetPending = false ∧ ({ machine with nmiPending := true }).nmiPending = true) ∧
    (({ machine with irqAsserted := true }).resetPending = false ∧
      ({ machine with irqAsserted := true }).nmiPending = false ∧
      ({ machine with irqAsserted := true }).irqAsserted = true ∧ machine.flag .i = false) := by decide

theorem test_witness_StepRunsDecodedInstruction :
    (machine.place 0xFFFF [0xA9, 0x01]).canRun ∧ (machine.place 0xFFFF [0xA9, 0x01]).attention = false ∧
    decode settings.ext (machine.place 0xFFFF [0xA9, 0x01]).bytesAtPc = .ok (.lda (.imm 0x01)) [0x00] :=
  ⟨⟨by decide, by decide, .inl (by decide)⟩, by decide, by decide⟩

/-- The interrupted NMI program. -/
theorem test_witness_StepServicesThenRuns :
    ({ interrupted with nmiPending := true }).canRun ∧ ({ interrupted with nmiPending := true }).attention = true ∧
    decode settings.ext ({ interrupted with nmiPending := true }).turnTaken.attend.bytesAtPc =
      .ok .nop [0x00, 0x00] :=
  ⟨⟨by decide, by decide, .inl (by decide)⟩, by decide, by decide⟩

/-- A state for each engine state; a core turn that is listed and one that is not. -/
theorem test_witness_WaitingEnginesDoNotStep :
    State.powerOn.coreTurn ∧ State.powerOn.engine = .off ∧
    ({ machine with engine := .waitingForReset, schedule := [.core] }).coreTurn ∧
    ¬(({ machine with engine := .waitingForReset }).resetPending = true ∧ machine.resetLineHigh = true) ∧
    ({ machine with resetLineHigh := false }).resetLineHigh = false ∧
    ¬(({ machine with engine := .paused }).resetLineHigh = true ∧
      ({ machine with engine := .paused }).attention = true) ∧
    ({ machine with engine := .faulted 0 0x03 }).engine = .faulted 0 0x03 :=
  ⟨.inl rfl, rfl, .inr ⟨[], rfl⟩, by decide, rfl, by decide, rfl⟩

theorem test_witness_WaitingEnginesStartRunning :
    machine.coreTurn ∧ machine.resetLineHigh = true ∧
    ({ machine with engine := .waitingForReset, resetPending := true }).resetPending = true ∧
    ({ machine with engine := .paused, irqAsserted := true }).attention = true := ⟨.inl rfl, rfl, rfl, by decide⟩

/-- Each operation can be next, with the line at either level. -/
theorem test_witness_LineOperationsLatchEdges :
    ({ machine with schedule := [.host .resetHigh, .core] }).schedule = .host .resetHigh :: [.core] ∧
    machine.resetLineHigh = true ∧ State.powerOn.resetLineHigh = false ∧ machine.nmiLineHigh = false ∧
    ({ machine with nmiLineHigh := true }).nmiLineHigh = true := by decide

theorem test_witness_LifecycleCalls :
    ({ State.powerOn with schedule := [.host .turnOn] }).schedule = .host .turnOn :: [] ∧
    State.powerOn.engine = .off ∧
    ({ machine with schedule := [.host .turnOff] }).schedule = .host .turnOff :: [] ∧ machine.engine ≠ .off :=
  ⟨rfl, rfl, rfl, by decide⟩

/-- A call of each kind, in an engine state that allows it and in one that does not. -/
theorem test_witness_HostConfiguresAndAccessesMemory :
    ({ State.powerOn with schedule := [.host (.memWrite 0xFFFF 0x01)] }).schedule = .host (.memWrite 0xFFFF 0x01) :: [] ∧
    State.powerOn.engine = .off ∧ machine.engine = .running ∧
    ({ machine with engine := .paused }).engine = .paused ∧
    (({ machine with engine := .faulted 0 3 }).engine ≠ .running ∧
      ({ machine with engine := .faulted 0 3 }).engine ≠ .paused) := ⟨rfl, rfl, rfl, rfl, by decide, by decide⟩

/-- A state of the invariant whose step runs the pause opcode, and one in the Faulted engine state. -/
theorem test_witness_EveryStepKeepsInvariant :
    (machine.place 0x0300 [0xCB]).Inv ∧
    lands (machine.place 0x0300 [0xCB]) (fun s => { s with pc := 0x0301, engine := .paused }) = true ∧
    ({ machine with engine := .faulted 0xFFFF 0x03, pc := 0x0000 }).Inv :=
  ⟨⟨by decide, ⟨by decide, by decide⟩⟩, by decide,
    ⟨by decide, ⟨by decide, by decide⟩, by decide, by decide, by decide⟩⟩

/-- A Faulted core at a core turn, and before `turn_off`. -/
theorem test_witness_FaultedIsLeftByTurnOffAlone :
    ({ machine with engine := .faulted 0xFFFF 0x44 }).engine = .faulted 0xFFFF 0x44 ∧
    ({ machine with engine := .faulted 0xFFFF 0x44 }).coreTurn ∧
    (¬∃ l, ({ machine with engine := .faulted 0xFFFF 0x44 }).schedule = .host .turnOff :: l) ∧
    ∃ l, ({ machine with engine := .faulted 0xFFFF 0x44, schedule := [.host .turnOff, .core] }).schedule =
      .host .turnOff :: l := ⟨rfl, .inl rfl, by simp [machine, State.powerOn], _, rfl⟩

theorem test_witness_FlagsHaveOnlyTheirWriters :
    exec (.lda (.imm 0x00)) machine = .next (machine.loadA 0x00) ∧ mayWriteFlag .c (.lda (.imm 0x00)) = false ∧
    exec .sec machine = .next (machine.putFlag .c true) ∧ mayWriteFlag .z .sec = false :=
  ⟨rfl, by decide, rfl, by decide⟩

theorem test_witness_RegistersHaveOnlyTheirWriters :
    exec .tax machine = .next (machine.loadX 0x00) ∧ mayWriteA .tax = false ∧ mayWriteY .tax = false ∧
    mayMoveS .tax = false ∧ mayWriteX .tay = false := ⟨rfl, by decide, by decide, by decide, by decide⟩

end Sys2Proof.Tests
end

/-! Interrupt attention (spec/10_state.md R36) and the selection of `attend` (spec/60_exceptions.md R351). -/

namespace Sys2Proof.Machine

/-- Attention source by source: the mask bit I bears on the IRQ line alone (R36). -/
theorem attention_iff (s : State) :
    s.attention = true ↔
      s.resetPending = true ∨ s.nmiPending = true ∨ (s.irqAsserted = true ∧ s.flag .i = false) := by
  simp only [State.attention, Bool.or_eq_true, Bool.and_eq_true, Bool.not_eq_true', or_assoc]

/-- A latched reset is serviced whatever else is pending (R351). -/
theorem attend_of_resetPending {s : State} (hreset : s.resetPending = true) : s.attend = s.resetService := by
  rw [State.attend, if_pos hreset]

/-- A latched NMI is serviced when no reset is, whatever the IRQ line and the mask bit I (R351). -/
theorem attend_of_nmiPending {s : State} (hreset : s.resetPending = false) (hnmi : s.nmiPending = true) :
    s.attend = s.nmiService := by
  simp [State.attend, hreset, hnmi]

/-- An asserted and unmasked IRQ is serviced when nothing is latched (R351). -/
theorem attend_of_irqAsserted {s : State} (hreset : s.resetPending = false) (hnmi : s.nmiPending = false)
    (hirq : s.irqAsserted = true) (hmask : s.flag .i = false) : s.attend = s.irqService := by
  simp [State.attend, hreset, hnmi, hirq, hmask]

/-- Settles O45: attention source by source, and one selection rule of `attend` for each priority. -/
theorem attendServicesTheHighest : Obligations.AttendServicesTheHighest := fun s =>
  ⟨attention_iff s, attend_of_resetPending, attend_of_nmiPending, attend_of_irqAsserted⟩

end Sys2Proof.Machine

/-! The opcodes on the unimplemented path (spec/30_encoding.md R103, R104): `Unimpl(cfg)` in numbers and counted, and the
decoder's opcode matrix read against it. -/

namespace Sys2Proof.Machine

/-- The low nibble of a number, the column of an opcode in the matrix, is its remainder by 16. -/
theorem and_15_eq_mod_16 (n : Nat) : n &&& 15 = n % 16 := Nat.and_two_pow_sub_one_eq_mod n 4

/-- `Undef` of R104, part by part, on the number of the opcode. -/
theorem undefOpcode_iff (op : Byte) :
    undefOpcode op = true ↔
      op.toNat % 16 = 0x3 ∨
      (op.toNat % 16 = 0xB ∧ op.toNat ≠ 0xCB ∧ op.toNat ≠ 0xDB) ∨
      op.toNat ∈ [0x02, 0x22, 0x42, 0x62, 0x82, 0xC2, 0xE2] ∨
      op.toNat ∈ [0x44, 0x54, 0xD4, 0xF4] ∨
      op.toNat ∈ [0x5C, 0xDC, 0xFC] := by
  simp [undefOpcode, and_15_eq_mod_16, ← BitVec.toNat_inj, or_assoc]

/-- `Unimpl(cfg)` of R104: `Undef`, and the columns or opcodes behind each closed gate. -/
theorem unimplOpcode_iff (ext : Extensions) (op : Byte) :
    unimplOpcode ext op = true ↔
      undefOpcode op = true ∨
      (ext.vendor = false ∧ (op.toNat % 16 = 0x7 ∨ op.toNat % 16 = 0xF)) ∨
      (ext.pause = false ∧ (op.toNat = 0xCB ∨ op.toNat = 0xDB)) := by
  simp [unimplOpcode, and_15_eq_mod_16, ← BitVec.toNat_inj, or_assoc]

/-- R104's counts under every setting: the 44 opcodes of `Undef`, the 32 vendor opcodes and the 2 pause opcodes. -/
theorem length_filter_unimplOpcode (ext : Extensions) :
    ((List.range 256).filter (fun n => unimplOpcode ext (BitVec.ofNat 8 n))).length =
      44 + (if ext.vendor then 0 else 32) + (if ext.pause then 0 else 2) := by
  obtain ⟨_ | _, _ | _⟩ := ext <;> rfl

/-- A cell builds the unimplemented instruction exactly when R104 puts its opcode in `Unimpl(cfg)`, whatever the toggles
and the operand bytes. -/
def CellFollowsUnimplRule (op : Byte) (e : Entry) : Prop :=
  ∀ (ext : Extensions) (b1 b2 : Byte), e.build ext op b1 b2 = .unimpl op ↔ unimplOpcode ext op = true

/-- The matrix of R107 follows R104 row by row: an `undef` cell stands at each opcode of `Undef` and a gated cell at each
vendor or pause opcode, and no cell has the unimplemented instruction as its meaning. -/
theorem opcodeEntry_followsUnimplRule (op : Byte) : CellFollowsUnimplRule op (opcodeEntry op) := by
  apply forall_opcode CellFollowsUnimplRule <;>
    simp [opcodeRow0, opcodeRow1, opcodeRow2, opcodeRow3, opcodeRow4, opcodeRow5, opcodeRow6, opcodeRow7, opcodeRow8,
      opcodeRow9, opcodeRowA, opcodeRowB, opcodeRowC, opcodeRowD, opcodeRowE, opcodeRowF, RowHolds,
      CellFollowsUnimplRule, Entry.build, unimplOpcode, undefOpcode]

/-- The decoder takes the unimplemented path exactly on `Unimpl(cfg)` (R104). -/
theorem decodeOpcode_eq_unimpl_iff (ext : Extensions) (op b1 b2 : Byte) :
    decodeOpcode ext op b1 b2 = .unimpl op ↔ unimplOpcode ext op = true :=
  opcodeEntry_followsUnimplRule op ext b1 b2

/-- Settles O4: the decoder's path is `Unimpl(cfg)` by the matrix's rows, and the set's parts and counts are R104's. -/
theorem unimplementedOpcodesAreTheRule : Obligations.UnimplementedOpcodesAreTheRule := by
  refine ⟨fun ext op b1 b2 => ?_, length_filter_unimplOpcode ⟨true, true⟩, length_filter_unimplOpcode ⟨false, false⟩⟩
  rw [decodeOpcode_eq_unimpl_iff, unimplOpcode_iff, undefOpcode_iff]
  simp only [or_assoc]

end Sys2Proof.Machine

/-! The loads of a register (spec/40_load_store_transfer.md R131 to R142) in one rule per destination, and the transfers as
uses of it; TXS (R143) is the one transfer that is no load. -/

namespace Sys2Proof.Machine

section Load

variable {s : State} {i : Instr} {v : Byte}

/-- An instruction that loads A changes A, and Z and N of P. -/
theorem wroteNZ_of_exec_eq_loadA (hload : exec i s = .next (s.loadA v)) :
    ∃ p', exec i s = .next { s with a := v, p := p' } ∧ WroteNZ v s.p p' :=
  ⟨setNZ v s.p, hload, setNZ_wrote v s.p⟩

/-- An instruction that loads X changes X, and Z and N of P. -/
theorem wroteNZ_of_exec_eq_loadX (hload : exec i s = .next (s.loadX v)) :
    ∃ p', exec i s = .next { s with x := v, p := p' } ∧ WroteNZ v s.p p' :=
  ⟨setNZ v s.p, hload, setNZ_wrote v s.p⟩

/-- An instruction that loads Y changes Y, and Z and N of P. -/
theorem wroteNZ_of_exec_eq_loadY (hload : exec i s = .next (s.loadY v)) :
    ∃ p', exec i s = .next { s with y := v, p := p' } ∧ WroteNZ v s.p p' :=
  ⟨setNZ v s.p, hload, setNZ_wrote v s.p⟩

end Load

section Transfer

variable (s : State)

/-- TAX loads X from A (R138). -/
theorem exec_tax : exec .tax s = .next (s.loadX s.a) := rfl

/-- TAY loads Y from A (R139). -/
theorem exec_tay : exec .tay s = .next (s.loadY s.a) := rfl

/-- TXA loads A from X (R140). -/
theorem exec_txa : exec .txa s = .next (s.loadA s.x) := rfl

/-- TYA loads A from Y (R141). -/
theorem exec_tya : exec .tya s = .next (s.loadA s.y) := rfl

/-- TSX loads X from S (R142). -/
theorem exec_tsx : exec .tsx s = .next (s.loadX s.sp) := rfl

/-- TXS writes S alone, so P is as before (R143). -/
theorem exec_txs : exec .txs s = .next (s.setSp s.x) := rfl

end Transfer

/-- Settles O11: five transfers are loads from a register, by the rule of their destination, and TXS writes S alone; each
encoding is the one byte of its rule. -/
theorem transfersCopyRegister : Obligations.TransfersCopyRegister := fun s =>
  ⟨⟨rfl, wroteNZ_of_exec_eq_loadX (exec_tax s)⟩,
    ⟨rfl, wroteNZ_of_exec_eq_loadY (exec_tay s)⟩,
    ⟨rfl, wroteNZ_of_exec_eq_loadA (exec_txa s)⟩,
    ⟨rfl, wroteNZ_of_exec_eq_loadA (exec_tya s)⟩,
    ⟨rfl, wroteNZ_of_exec_eq_loadX (exec_tsx s)⟩,
    rfl, exec_txs s⟩

end Sys2Proof.Machine

/-! The compares of a register (spec/41_alu.md R171 to R174): what `setCompare` does to every flag, and CMP, CPX and CPY as
uses of it. -/

namespace Sys2Proof.Machine

/-- Bit 7 of a difference of bytes, in numbers (the N of R171). -/
theorem byte_sub_msb (r m : Byte) : (r - m).msb = decide (128 ≤ (256 + r.toNat - m.toNat) % 256) := by
  have hm := m.isLt
  have hdiff : 2 ^ 8 - m.toNat + r.toNat = 256 + r.toNat - m.toNat := by omega
  rw [byte_msb, BitVec.toNat_sub, hdiff]

/-- `Compare(r, m)` of R171, flag by flag: V and D, as I, B and U, are kept, and D bears on none. -/
theorem getFlag_setCompare (f : Flag) (r m p : Byte) :
    getFlag f (setCompare r m p) =
      if f = .c then decide (m.toNat ≤ r.toNat)
      else if f = .z then decide (r = m)
      else if f = .n then decide (128 ≤ (256 + r.toNat - m.toNat) % 256)
      else getFlag f p := by
  simp only [setCompare, getFlag_setFlag, byte_sub_msb]
  cases f <;> simp [beq_eq_decide]

section Compare

variable (s : State) (o : Operand)

/-- CMP compares A (R172). -/
theorem exec_cmp : exec (.cmp o) s = .next (s.compare s.a (s.operand o)) := rfl

/-- CPX compares X (R173). -/
theorem exec_cpx : exec (.cpx o) s = .next (s.compare s.x (s.operand o)) := rfl

/-- CPY compares Y (R174). -/
theorem exec_cpy : exec (.cpy o) s = .next (s.compare s.y (s.operand o)) := rfl

end Compare

/-- Settles O19: an instruction that compares writes P alone, by `setCompare`, and the three compares are such. -/
theorem comparesSetCZN : Obligations.ComparesSetCZN := by
  intro s o compared
  have compared_of_exec {i : Instr} {r m : Byte} (hexec : exec i s = .next (s.compare r m)) : compared i r m := by
    refine ⟨setCompare r m s.p, hexec, fun f => ?_⟩
    rw [getFlag_setCompare]
    cases f <;> rfl
  exact ⟨compared_of_exec (exec_cmp s o), compared_of_exec (exec_cpx s o), compared_of_exec (exec_cpy s o)⟩

end Sys2Proof.Machine

/-! Increment and decrement of a register (spec/41_alu.md R178 to R180, R182 to R184): each is a load of the register with
its own byte plus or minus one. -/

namespace Sys2Proof.Machine

section IncDec

variable (s : State)

/-- INC A loads A with A plus one (R178). -/
theorem exec_incA : exec .incA s = .next (s.loadA (s.a + 1)) := rfl

/-- INX loads X with X plus one (R179). -/
theorem exec_inx : exec .inx s = .next (s.loadX (s.x + 1)) := rfl

/-- INY loads Y with Y plus one (R180). -/
theorem exec_iny : exec .iny s = .next (s.loadY (s.y + 1)) := rfl

/-- DEC A loads A with A minus one (R182). -/
theorem exec_decA : exec .decA s = .next (s.loadA (s.a - 1)) := rfl

/-- DEX loads X with X minus one (R183). -/
theorem exec_dex : exec .dex s = .next (s.loadX (s.x - 1)) := rfl

/-- DEY loads Y with Y minus one (R184). -/
theorem exec_dey : exec .dey s = .next (s.loadY (s.y - 1)) := rfl

end IncDec

/-- The increment of a byte wraps 0xFF to 0x00. -/
theorem byte_add_one_toNat (v : Byte) : (v + 1).toNat = (v.toNat + 1) % 256 := BitVec.toNat_add v 1

/-- The decrement of a byte wraps 0x00 to 0xFF. -/
theorem byte_sub_one_toNat (v : Byte) : (v - 1).toNat = (v.toNat + 255) % 256 := by
  rw [BitVec.toNat_sub, Nat.add_comm]
  rfl

/-- A load of the byte `v` is a load of a result with the number of `v`. -/
theorem exists_result_of_load {loaded : Byte → Byte → Prop} {v p : Byte} {n : Nat} (hv : v.toNat = n)
    (hload : ∃ p', loaded v p' ∧ WroteNZ v p p') : ∃ r p', loaded r p' ∧ r.toNat = n ∧ WroteNZ r p p' := by
  obtain ⟨p', hnext, hflags⟩ := hload
  exact ⟨v, p', hnext, hv, hflags⟩

/-- Settles O22: the six are loads, by the rule of their destination, of a byte that counts modulo 256; each encoding is
the one byte of its rule. -/
theorem incDecRegisters : Obligations.IncDecRegisters := fun s =>
  ⟨⟨rfl, exists_result_of_load (byte_add_one_toNat s.a) (wroteNZ_of_exec_eq_loadA (exec_incA s))⟩,
    ⟨rfl, exists_result_of_load (byte_add_one_toNat s.x) (wroteNZ_of_exec_eq_loadX (exec_inx s))⟩,
    ⟨rfl, exists_result_of_load (byte_add_one_toNat s.y) (wroteNZ_of_exec_eq_loadY (exec_iny s))⟩,
    ⟨rfl, exists_result_of_load (byte_sub_one_toNat s.a) (wroteNZ_of_exec_eq_loadA (exec_decA s))⟩,
    ⟨rfl, exists_result_of_load (byte_sub_one_toNat s.x) (wroteNZ_of_exec_eq_loadX (exec_dex s))⟩,
    ⟨rfl, exists_result_of_load (byte_sub_one_toNat s.y) (wroteNZ_of_exec_eq_loadY (exec_dey s))⟩⟩

end Sys2Proof.Machine

/-! The flag instructions (spec/43_flag_ops.md R220 to R226): each puts one flag of P to a fixed value. -/

namespace Sys2Proof.Machine

section PutFlag

variable (s : State)

/-- CLC puts C to 0 (R220). -/
theorem exec_clc : exec .clc s = .next (s.putFlag .c false) := rfl

/-- SEC puts C to 1 (R221). -/
theorem exec_sec : exec .sec s = .next (s.putFlag .c true) := rfl

/-- CLI puts I to 0 (R222). -/
theorem exec_cli : exec .cli s = .next (s.putFlag .i false) := rfl

/-- SEI puts I to 1 (R223). -/
theorem exec_sei : exec .sei s = .next (s.putFlag .i true) := rfl

/-- CLD puts D to 0 (R224). -/
theorem exec_cld : exec .cld s = .next (s.putFlag .d false) := rfl

/-- SED puts D to 1 (R225). -/
theorem exec_sed : exec .sed s = .next (s.putFlag .d true) := rfl

/-- CLV puts V to 0 (R226). -/
theorem exec_clv : exec .clv s = .next (s.putFlag .v false) := rfl

variable {s} {i : Instr} {g : Flag} {on : Bool}

/-- An instruction that puts a flag changes P alone, and in P that flag alone. -/
theorem wroteFlag_of_exec_eq_putFlag (hput : exec i s = .next (s.putFlag g on)) :
    ∃ p', exec i s = .next { s with p := p' } ∧ WroteFlag g on s.p p' :=
  ⟨setFlag g on s.p, hput, setFlag_wrote g on s.p⟩

end PutFlag

/-- Settles O26: each of the seven puts its one flag, and its encoding is the one byte of its rule. -/
theorem flagInstructionsWriteOneFlag : Obligations.FlagInstructionsWriteOneFlag := fun s =>
  ⟨⟨rfl, wroteFlag_of_exec_eq_putFlag (exec_clc s)⟩,
    ⟨rfl, wroteFlag_of_exec_eq_putFlag (exec_sec s)⟩,
    ⟨rfl, wroteFlag_of_exec_eq_putFlag (exec_cli s)⟩,
    ⟨rfl, wroteFlag_of_exec_eq_putFlag (exec_sei s)⟩,
    ⟨rfl, wroteFlag_of_exec_eq_putFlag (exec_cld s)⟩,
    ⟨rfl, wroteFlag_of_exec_eq_putFlag (exec_sed s)⟩,
    ⟨rfl, wroteFlag_of_exec_eq_putFlag (exec_clv s)⟩⟩

end Sys2Proof.Machine

/-! The stack instructions (spec/44_stack.md R242 to R249): each is one use of a stack primitive, and the effect of an
instruction is read off the law of its primitive, `Push` (R240) or `Pull` (R241). -/

namespace Sys2Proof.Machine

section Stack

variable (s : State)

/-- PHA pushes A (R242). -/
theorem exec_pha : exec .pha s = .next (s.push s.a) := rfl

/-- PHP pushes P with B and U as 1 (R243). -/
theorem exec_php : exec .php s = .next (s.push (withBU s.p)) := rfl

/-- PHX pushes X (R244). -/
theorem exec_phx : exec .phx s = .next (s.push s.x) := rfl

/-- PHY pushes Y (R245). -/
theorem exec_phy : exec .phy s = .next (s.push s.y) := rfl

/-- PLA loads A, in the state after the pull, with the byte pulled (R246). -/
theorem exec_pla : exec .pla s = .next (s.pull.2.loadA s.pull.1) := rfl

/-- PLP writes P with the byte pulled, B and U as 1 (R247). -/
theorem exec_plp : exec .plp s = .next (s.pull.2.setP (withBU s.pull.1)) := rfl

/-- PLX loads X, in the state after the pull, with the byte pulled (R248). -/
theorem exec_plx : exec .plx s = .next (s.pull.2.loadX s.pull.1) := rfl

/-- PLY loads Y, in the state after the pull, with the byte pulled (R249). -/
theorem exec_ply : exec .ply s = .next (s.pull.2.loadY s.pull.1) := rfl

variable {s}

/-- A push reads back at `256 + S` in numbers, S from before the decrement (R240). -/
theorem push_read_toNat (v : Byte) (b : Word) :
    (s.push v).read b = if b.toNat = 256 + s.sp.toNat then v else s.read b := by
  simp only [push_read, eq_stackAddr]

/-- A pull in numbers: S counts up modulo 256, and the byte is read at 256 plus the new S (R241). -/
theorem pull_eq_of_toNat {sp' : Byte} {b : Word} (hsp : sp'.toNat = (s.sp.toNat + 1) % 256)
    (hb : b.toNat = 256 + sp'.toNat) : s.pull = (s.read b, s.setSp sp') := by
  have hsp_eq : sp' = s.sp + 1 := BitVec.eq_of_toNat_eq (hsp.trans (byte_add_one_toNat s.sp).symm)
  rw [eq_stackAddr.mpr hb, hsp_eq, pull_eq]
  rfl

end Stack

/-- Settles O27: an instruction that pushes writes one stack byte and then decrements S, by the law of `Push`, and the four
pushes are such; the byte of PHP is P with B and U as 1. -/
theorem pushesWriteThenDecrement : Obligations.PushesWriteThenDecrement := by
  intro s pushed
  have pushed_of_exec {i : Instr} {op v : Byte} (hencode : encode i = [op]) (hexec : exec i s = .next (s.push v)) :
      pushed i op v :=
    ⟨hencode, s.push v, s.sp - 1, hexec, byte_sub_one_toNat s.sp, push_frame s v, push_read_toNat v⟩
  exact ⟨pushed_of_exec rfl (exec_pha s), pushed_of_exec rfl (exec_phx s), pushed_of_exec rfl (exec_phy s),
    withBU s.p, fun f => (getFlag_withBU f s.p).trans (Bool.or_comm _ _), pushed_of_exec rfl (exec_php s)⟩

/-- Settles O28: the four pulls act on one pull, which the law of `Pull` gives in numbers; three load their register with
its byte, and PLP loads P with it, B and U as 1. -/
theorem pullsIncrementThenRead : Obligations.PullsIncrementThenRead := by
  intro s sp' b hsp hb
  have hpull : s.pull = (s.read b, s.setSp sp') := pull_eq_of_toNat hsp hb
  have hnz : WroteNZ (s.read b) s.p (setNZ (s.read b) s.p) := setNZ_wrote (s.read b) s.p
  refine ⟨⟨rfl, _, ?pla, hnz⟩, ⟨rfl, _, ?plx, hnz⟩, ⟨rfl, _, ?ply, hnz⟩, rfl, withBU (s.read b), ?plp,
    fun f => (getFlag_withBU f (s.read b)).trans (Bool.or_comm _ _)⟩
  case pla => rw [exec_pla, hpull]; rfl
  case plx => rw [exec_plx, hpull]; rfl
  case ply => rw [exec_ply, hpull]; rfl
  case plp => rw [exec_plp, hpull]; rfl

end Sys2Proof.Machine

/-! The branches (spec/45_control.md R260 to R269): each takes the relative target under its own condition, so one rule for
`State.branch` serves them all. -/

namespace Sys2Proof.Machine

section Branch

variable (s : State) (r : Byte)

/-- BPL branches where N is clear (R261). -/
theorem exec_bpl : exec (.bpl r) s = .next (s.branch (!s.flag .n) r) := rfl

/-- BMI branches where N is set (R262). -/
theorem exec_bmi : exec (.bmi r) s = .next (s.branch (s.flag .n) r) := rfl

/-- BVC branches where V is clear (R263). -/
theorem exec_bvc : exec (.bvc r) s = .next (s.branch (!s.flag .v) r) := rfl

/-- BVS branches where V is set (R264). -/
theorem exec_bvs : exec (.bvs r) s = .next (s.branch (s.flag .v) r) := rfl

/-- BCC branches where C is clear (R265). -/
theorem exec_bcc : exec (.bcc r) s = .next (s.branch (!s.flag .c) r) := rfl

/-- BCS branches where C is set (R266). -/
theorem exec_bcs : exec (.bcs r) s = .next (s.branch (s.flag .c) r) := rfl

/-- BNE branches where Z is clear (R267). -/
theorem exec_bne : exec (.bne r) s = .next (s.branch (!s.flag .z) r) := rfl

/-- BEQ branches where Z is set (R268). -/
theorem exec_beq : exec (.beq r) s = .next (s.branch (s.flag .z) r) := rfl

/-- BRA branches always (R269). -/
theorem exec_bra : exec (.bra r) s = .next (s.branch true r) := rfl

end Branch

/-- Settles O30: an instruction that branches changes pc alone, to the relative target or not at all, and the nine are
such; each encoding is the two bytes of its rule. -/
theorem branchesMoveBySignedOffset : Obligations.BranchesMoveBySignedOffset := by
  intro s r branches
  have branches_of_exec {i : Instr} {op : Byte} {cond : Bool} (hencode : encode i = [op, r])
      (hexec : exec i s = .next (s.branch cond r)) : branches i op cond := by
    rw [branch_eq] at hexec
    refine ⟨hencode, _, hexec, ?_⟩
    cases cond with
    | true => exact relTarget_toNat s r
    | false => rfl
  exact ⟨branches_of_exec rfl (exec_bpl s r), branches_of_exec rfl (exec_bmi s r), branches_of_exec rfl (exec_bvc s r),
    branches_of_exec rfl (exec_bvs s r), branches_of_exec rfl (exec_bcc s r), branches_of_exec rfl (exec_bcs s r),
    branches_of_exec rfl (exec_bne s r), branches_of_exec rfl (exec_beq s r), branches_of_exec rfl (exec_bra s r)⟩

end Sys2Proof.Machine

/-! JMP in its three forms and NOP (spec/45_control.md R270 to R272, R277): an indirect target is one word read. -/

namespace Sys2Proof.Machine

section Jump

variable (s : State) (w : Word)

/-- JMP loads pc with its operand (R270). -/
theorem exec_jmp : exec (.jmp w) s = .next (s.setPc w) := rfl

/-- JMP (abs) loads pc with the word at its operand (R271). -/
theorem exec_jmpInd : exec (.jmpInd w) s = .next (s.setPc (s.readWord w)) := rfl

/-- JMP (abs,X) loads pc with the word at its operand plus X (R272). -/
theorem exec_jmpIax : exec (.jmpIax w) s = .next (s.setPc (s.readWord (w + zext16 s.x))) := rfl

/-- NOP changes nothing (R277). -/
theorem exec_nop : exec .nop s = .next s := rfl

end Jump

/-- A word read in numbers: the high byte stands at the next address modulo 2^16, across a page end too (R53). -/
theorem readWord_toNat_of_toNat {s : State} {lo hi : Word} (hhi : hi.toNat = (lo.toNat + 1) % 65536) :
    (s.readWord lo).toNat = 256 * (s.read hi).toNat + (s.read lo).toNat := by
  have hnext : lo + 1 = hi := BitVec.eq_of_toNat_eq ((BitVec.toNat_add lo 1).trans hhi.symm)
  rw [readWord_toNat, hnext, Nat.mul_comm]

/-- An address indexed by a byte, in numbers (R99). -/
theorem add_zext16_toNat (w : Word) (v : Byte) : (w + zext16 v).toNat = (w.toNat + v.toNat) % 65536 := by
  rw [BitVec.toNat_add, zext16_toNat]

/-- Settles O31: an indirect form loads pc by one word read, whose high byte is at the address after the low byte's; for
(abs,X) the low byte is at the indexed address. -/
theorem jumpsLoadPc : Obligations.JumpsLoadPc := by
  intro s w
  refine ⟨⟨rfl, rfl, rfl, rfl⟩, exec_jmp s w, fun hi hhi => ?ind, fun lo hi hlo hhi => ?iax, exec_nop s⟩
  case ind => exact ⟨_, exec_jmpInd s w, readWord_toNat_of_toNat hhi⟩
  case iax =>
    have hlo_eq : lo = w + zext16 s.x := BitVec.eq_of_toNat_eq (hlo.trans (add_zext16_toNat w s.x).symm)
    subst hlo_eq
    exact ⟨_, exec_jmpIax s w, readWord_toNat_of_toNat hhi⟩

end Sys2Proof.Machine

/-! The subroutine call and return (spec/45_control.md R273, R274): one word push and one word pull, by the laws of both in
numbers. -/

namespace Sys2Proof.Machine

section Subroutine

variable (s : State)

/-- JSR pushes pc minus one and loads pc with its operand (R273). -/
theorem exec_jsr (w : Word) : exec (.jsr w) s = .next ((s.pushWord (s.pc - 1)).setPc w) := rfl

/-- RTS loads pc, in the state after the pull, with the word pulled plus one (R274). -/
theorem exec_rts : exec .rts s = .next (s.pullWord.2.setPc (s.pullWord.1 + 1)) := rfl

/-- A word push moves S down by two (R240). -/
theorem pushWord_sp (w : Word) : (s.pushWord w).sp = s.sp - 2 := BitVec.sub_sub ..

/-- A word push in numbers: the high byte at `256 + S`, the low byte one lower in the stack page (R240). -/
theorem pushWord_read_toNat (w b : Word) :
    (s.pushWord w).read b =
      if b.toNat = 256 + s.sp.toNat then hiByte w
      else if b.toNat = 256 + (s.sp - 1).toNat then loByte w
      else s.read b := by
  have hslots : b.toNat = 256 + (s.sp - 1).toNat → b.toNat ≠ 256 + s.sp.toNat := by bv_omega
  simp only [pushWord_read, eq_stackAddr]
  exact ite_ite_comm _ _ _ _ hslots

variable {s}

/-- A word pull in numbers: low byte first, from 256 plus S counted up once and twice (R241). -/
theorem pullWord_eq_of_toNat {b1 b2 : Word} (hb1 : b1.toNat = 256 + (s.sp + 1).toNat)
    (hb2 : b2.toNat = 256 + (s.sp + 2).toNat) : s.pullWord = (wordOf (s.read b2) (s.read b1), s.setSp (s.sp + 2)) := by
  have hsp : s.sp + 1 + 1 = s.sp + 2 := BitVec.add_assoc s.sp 1 1
  rw [pullWord_eq, hsp, eq_stackAddr.mpr hb1, eq_stackAddr.mpr hb2]
  rfl

end Subroutine

/-- The decrement of an address wraps 0x0000 to 0xFFFF. -/
theorem word_sub_one_toNat (w : Word) : (w - 1).toNat = (w.toNat + 65535) % 65536 := by
  rw [BitVec.toNat_sub, Nat.add_comm]
  rfl

/-- Settles O32: the word pushed is pc minus one, and a word push puts its bytes in the two stack slots. -/
theorem jsrPushesReturnAddress : Obligations.JsrPushesReturnAddress := by
  intro s w ret
  have hret : (s.pc - 1).toNat = ret := word_sub_one_toNat s.pc
  refine ⟨rfl, _, exec_jsr s w, ?frame, fun b => ?memory⟩
  case frame => rw [← pushWord_sp s (s.pc - 1)]; rfl
  case memory =>
    rw [← hret, ofNat_div_byte, ofNat_mod_byte]
    exact pushWord_read_toNat s (s.pc - 1) b

/-- Settles O33: RTS acts on one word pull, whose law gives the word in numbers and S up by two. -/
theorem rtsPullsReturnAddress : Obligations.RtsPullsReturnAddress := by
  intro s b1 b2 hb1 hb2
  have hpull : s.pullWord = (wordOf (s.read b2) (s.read b1), s.setSp (s.sp + 2)) := pullWord_eq_of_toNat hb1 hb2
  refine ⟨rfl, wordOf (s.read b2) (s.read b1) + 1, ?next, ?target⟩
  case next => rw [exec_rts, hpull]; rfl
  case target => rw [BitVec.toNat_add, wordOf_toNat, Nat.mul_comm]; rfl

end Sys2Proof.Machine

/-! The vendor bit instructions (spec/46_vendor_bits.md R301 to R304): the number of the bit is part of the mnemonic, so one
rule serves the eight instructions of each kind. -/

namespace Sys2Proof.Machine

/-- A zero-page address is known by its number (R89). -/
theorem eq_zext16_of_toNat {a : Word} {z : Byte} (ha : a.toNat = z.toNat) : a = zext16 z :=
  BitVec.eq_of_toNat_eq (ha.trans (zext16_toNat z).symm)

/-- Exactly one bit of one memory byte may differ, every other piece of state is as before: the effect of a bit write. -/
def WroteBit (s t : State) (a : Word) (b : Nat) (on : Bool) : Prop :=
  ∃ r, WroteByte s t a r ∧ ∀ k < 8, r.getLsbD k = if k = b then on else (s.read a).getLsbD k

section BitWrite

variable (s : State) (z : Byte) {b : Nat}

/-- RMB writes its bit as 0 (R301). -/
theorem resetBit_wroteBit (hb : b < 8) : WroteBit s (s.resetBit b z) (zext16 z) b false :=
  ⟨_, write_wrote s (zext16 z) _, fun _ hk => and_not_bitMask _ hb hk⟩

/-- SMB writes its bit as 1 (R302). -/
theorem setBit_wroteBit (hb : b < 8) : WroteBit s (s.setBit b z) (zext16 z) b true :=
  ⟨_, write_wrote s (zext16 z) _, fun _ hk => or_bitMask _ hb hk⟩

end BitWrite

/-- Settles O38: an instruction whose next state is a bit write is what the statement asks, and the sixteen are such; each
encoding is the two bytes of its rule. -/
theorem vendorBitWrites : Obligations.VendorBitWrites := by
  intro s z a ha wrote
  obtain rfl := eq_zext16_of_toNat ha
  have wrote_of_exec {b base : Nat} {on : Bool} {i : Instr} {t : State}
      (hencode : encode i = [BitVec.ofNat 8 (base + 16 * b), z]) (hexec : exec i s = .next t)
      (hbit : WroteBit s t (zext16 z) b on) : wrote (b, i) base on := by
    obtain ⟨r, hbyte, hbits⟩ := hbit
    exact ⟨hencode, t, r, hexec, hbyte, hbits⟩
  simp only [List.forall_mem_cons, List.not_mem_nil, false_imp_iff, implies_true, and_true]
  constructor
  case left =>
    refine ⟨?_, ?_, ?_, ?_, ?_, ?_, ?_, ?_⟩ <;> exact wrote_of_exec rfl rfl (resetBit_wroteBit s z (by decide))
  case right =>
    refine ⟨?_, ?_, ?_, ?_, ?_, ?_, ?_, ?_⟩ <;> exact wrote_of_exec rfl rfl (setBit_wroteBit s z (by decide))

/-- Settles O39: an instruction that is a bit branch changes pc alone, to the relative target or not at all, and the sixteen
are such; each encoding is the three bytes of its rule. -/
theorem vendorBitBranches : Obligations.VendorBitBranches := by
  intro s z r a ha branches
  obtain rfl := eq_zext16_of_toNat ha
  have branches_of_exec {b base : Nat} {on : Bool} {i : Instr}
      (hencode : encode i = [BitVec.ofNat 8 (base + 16 * b), z, r])
      (hexec : exec i s = .next (s.branchBit b on z r)) : branches (b, i) base on := by
    rw [branchBit_eq] at hexec
    refine ⟨hencode, _, hexec, ?_⟩
    split_ifs
    · exact relTarget_toNat s r
    · rfl
  simp only [List.forall_mem_cons, List.not_mem_nil, false_imp_iff, implies_true, and_true]
  constructor
  case left => refine ⟨?_, ?_, ?_, ?_, ?_, ?_, ?_, ?_⟩ <;> exact branches_of_exec rfl rfl
  case right => refine ⟨?_, ?_, ?_, ?_, ?_, ?_, ?_, ?_⟩ <;> exact branches_of_exec rfl rfl

end Sys2Proof.Machine

/-! Reset service (spec/60_exceptions.md R352). -/

namespace Sys2Proof.Machine

/-- A service that masks P only where a parameter says so has the effect of masking there, and no effect on P elsewhere. -/
theorem maskInterrupts_wrote_of_masks (masks : Bool) (p : Byte) :
    let p' := if masks then maskInterrupts p else p
    if masks then WroteMask p p' else p' = p := by
  cases masks
  case false => rfl
  case true => exact maskInterrupts_wrote p

/-- Reset service, whole: memory and S are as before, so the vector is the word the memory held (R352). -/
theorem resetService_eq (s : State) :
    s.resetService =
      { s with
          resetPending := false
          nmiPending := false
          p := if s.cfg.resetMasks then maskInterrupts s.p else s.p
          pc := s.readWord 0xFFFC } := by
  unfold State.resetService
  cases s.cfg.resetMasks <;> rfl

/-- Settles O42: the service is the one state of `resetService_eq`, and its P is masked under P_RESET_MASKS alone. -/
theorem resetServiceLoadsVector : Obligations.ResetServiceLoadsVector := fun s =>
  ⟨_, resetService_eq s, maskInterrupts_wrote_of_masks s.cfg.resetMasks s.p⟩

end Sys2Proof.Machine

/-! Decoding against encoding (spec/30_encoding.md R80 to R108): each cell of the opcode matrix reads the instructions that
the encoder gives its opcode, with the operand bytes of its format and behind its gate. -/

namespace Sys2Proof.Machine

/-- The instructions of a cell, each with the operand bytes it is read from (R81, R83); an `undef` cell has none. -/
inductive CellReads : Entry → List Byte → Instr → Prop where
  | imp (i : Instr) : CellReads (.imp i) [] i
  | byte (f : Byte → Instr) (b : Byte) : CellReads (.byte f) [b] (f b)
  | word (f : Word → Instr) (w : Word) : CellReads (.word f) [loByte w, hiByte w] (f w)
  | vendorByte (f : Byte → Instr) (b : Byte) : CellReads (.vendorByte f) [b] (f b)
  | vendorPair (f : Byte → Byte → Instr) (b1 b2 : Byte) : CellReads (.vendorPair f) [b1, b2] (f b1 b2)
  | pauseImp (i : Instr) : CellReads (.pauseImp i) [] i

/-- Whether a cell's own instructions are read under the toggles (R103). -/
def cellGate (ext : Extensions) : Entry → Bool
  | .undef => false
  | .imp _ | .byte _ | .word _ => true
  | .vendorByte _ | .vendorPair _ => ext.vendor
  | .pauseImp _ => ext.pause

/-- A cell behind a closed gate builds the unimplemented instruction (R103). -/
theorem build_of_gate_closed {ext : Extensions} {e : Entry} (op b1 b2 : Byte) (hgate : cellGate ext e = false) :
    e.build ext op b1 b2 = .unimpl op := by
  cases e <;> simp_all [cellGate, Entry.build]

/-- A cell behind an open gate builds the instruction that it reads from those of the two bytes that its format has. -/
theorem cellReads_build {ext : Extensions} {e : Entry} (op b1 b2 : Byte) (hgate : cellGate ext e = true) :
    ∃ n ≤ 2, CellReads e ([b1, b2].take n) (e.build ext op b1 b2) := by
  cases e with
  | undef => cases hgate
  | imp i => exact ⟨0, by decide, .imp i⟩
  | byte f => exact ⟨1, by decide, .byte f b1⟩
  | word f =>
    refine ⟨2, by decide, ?_⟩
    have hword := CellReads.word f (wordOf b2 b1)
    rwa [wordOf_bytes] at hword
  | vendorByte f =>
    refine ⟨1, by decide, ?_⟩
    simpa [Entry.build, show ext.vendor = true from hgate] using CellReads.vendorByte f b1
  | vendorPair f =>
    refine ⟨2, by decide, ?_⟩
    simpa [Entry.build, show ext.vendor = true from hgate] using CellReads.vendorPair f b1 b2
  | pauseImp i =>
    refine ⟨0, by decide, ?_⟩
    simpa [Entry.build, show ext.pause = true from hgate] using CellReads.pauseImp i

/-- An instruction that a cell reads is what the cell builds from its operand bytes, whatever bytes follow. -/
theorem build_of_cellReads {ext : Extensions} {e : Entry} {bs : List Byte} {i : Instr} (op : Byte) (rest : List Byte)
    (hreads : CellReads e bs i) (hgate : cellGate ext e = true) :
    e.build ext op ((bs ++ rest).getD 0 0) ((bs ++ rest).getD 1 0) = i := by
  cases hreads with
  | imp i => rfl
  | byte f b => rfl
  | word f w => exact congrArg f (wordOf_hiByte_loByte w)
  | vendorByte f b => exact if_pos hgate
  | vendorPair f b1 b2 => exact if_pos hgate
  | pauseImp i => exact if_pos hgate

/-- The operand bytes of an instruction are those its format has (R81). -/
theorem operandBytes_length (i : Instr) : i.operandBytes.length + 1 = i.length := by
  cases i
  case lda o | ldx o | ldy o | adc o | sbc o | and o | ora o | eor o | cmp o | cpx o | cpy o =>
    exact Laws.EncodeLength.of_operand o
  case sta m | stx m | sty m | stz m | bit m | inc m | dec m | tsb m | trb m => exact Laws.EncodeLength.of_addr m
  case asl t | lsr t | rol t | ror t => exact Laws.EncodeLength.of_target t
  all_goals rfl

/-- The forms an instruction rule lists are those it lists an opcode for. -/
theorem forms_eq_encodings (i : Instr) : i.forms = i.encodings.map Prod.fst := by
  cases i <;> rfl

/-- A mode has an opcode in a list exactly when the list has it. -/
theorem isSome_opcodeOf (m : Mode) (l : List (Mode × Byte)) : (opcodeOf m l).isSome = true ↔ m ∈ l.map Prod.fst := by
  induction l with
  | nil => simp [opcodeOf]
  | cons e rest ih =>
    obtain ⟨k, op⟩ := e
    by_cases hk : m = k <;> simp_all [opcodeOf]

/-- A form that the instruction's rule lists is a form with an opcode. -/
theorem isSome_opcode (i : Instr) : i.opcode.isSome = true ↔ i.forms.contains i.mode = true := by
  rw [Instr.opcode, isSome_opcodeOf, forms_eq_encodings, List.contains_iff_mem]

/-- An instruction's own cell: it reads the instruction from its operand bytes, and the gates agree. -/
def InCell (i : Instr) (e : Entry) : Prop :=
  CellReads e i.operandBytes i ∧ ∀ ext, i.gateOpen ext = cellGate ext e

/-- The cell of the opcode that an "Encoding:" line gives is the instruction's own. -/
theorem inCell_of_opcode {i : Instr} {op : Byte} (hopcode : i.opcode = some op) :
    i = .unimpl op ∨ InCell i (opcodeEntry op) := by
  cases i
  case unimpl op' => cases hopcode; exact .inl rfl
  case lda o | ldx o | ldy o | adc o | sbc o | and o | ora o | eor o | cmp o | cpx o | cpy o =>
    right
    cases o with
    | imm v => cases hopcode; exact ⟨.byte _ _, fun _ => rfl⟩
    | mem m => cases m <;> cases hopcode <;> exact ⟨by constructor, fun _ => rfl⟩
  case sta m | stx m | sty m | stz m | bit m | inc m | dec m | tsb m | trb m =>
    right; cases m <;> cases hopcode <;> exact ⟨by constructor, fun _ => rfl⟩
  case asl t | lsr t | rol t | ror t =>
    right
    cases t with
    | acc => cases hopcode; exact ⟨.imp _, fun _ => rfl⟩
    | mem m => cases m <;> cases hopcode <;> exact ⟨by constructor, fun _ => rfl⟩
  all_goals right; cases hopcode; exact ⟨by constructor, fun _ => rfl⟩

/-- Every instruction a cell reads has the cell's opcode, the operand bytes it was read from, and the cell's gate. -/
def CellEncodes (op : Byte) (e : Entry) : Prop :=
  ∀ bs i, CellReads e bs i → i.opcode = some op ∧ i.operandBytes = bs ∧ ∀ ext, i.gateOpen ext = cellGate ext e

/-- The matrix follows the "Encoding:" lines, row by row and cell by cell. -/
theorem opcodeEntry_encodes (op : Byte) : CellEncodes op (opcodeEntry op) := by
  apply forall_opcode CellEncodes <;>
    (refine ⟨?_, ?_, ?_, ?_, ?_, ?_, ?_, ?_, ?_, ?_, ?_, ?_, ?_, ?_, ?_, ?_, trivial⟩ <;>
      rintro _ _ ⟨⟩ <;> exact ⟨rfl, rfl, fun _ => rfl⟩)

/-- The bytes of a form with an opcode. -/
theorem encode_of_opcode {i : Instr} {op : Byte} (hopcode : i.opcode = some op) : encode i = op :: i.operandBytes := by
  rw [encode, hopcode]

/-- An instruction has at most two operand bytes. -/
theorem length_sub_one_le (i : Instr) : i.length - 1 ≤ 2 := by
  have hle : i.length ≤ 3 := (Laws.EncodeLength.of_bytes (operandBytes_length i)).2.2
  omega

/-- What the decoder reads is well-formed and encoded as its opcode and the bytes that its format has. -/
theorem decodeOpcode_encodes (ext : Extensions) (op b1 b2 : Byte) :
    (decodeOpcode ext op b1 b2).wf ext = true ∧
      encode (decodeOpcode ext op b1 b2) = op :: [b1, b2].take ((decodeOpcode ext op b1 b2).length - 1) := by
  cases hgate : cellGate ext (opcodeEntry op)
  case false =>
    have hunimpl : decodeOpcode ext op b1 b2 = .unimpl op := build_of_gate_closed op b1 b2 hgate
    rw [hunimpl]
    exact ⟨(decodeOpcode_eq_unimpl_iff ext op b1 b2).mp hunimpl, rfl⟩
  case true =>
    obtain ⟨n, hn, hreads⟩ := cellReads_build op b1 b2 hgate
    obtain ⟨hopcode, hbytes, hgates⟩ := opcodeEntry_encodes op _ _ hreads
    have hform := (isSome_opcode _).mp (Option.isSome_of_eq_some hopcode)
    have hlength := operandBytes_length (decodeOpcode ext op b1 b2)
    have htaken : (decodeOpcode ext op b1 b2).operandBytes = [b1, b2].take n := hbytes
    rw [htaken, List.length_take_of_le hn] at hlength
    refine ⟨Bool.and_eq_true_iff.mpr ⟨hform, (hgates ext).trans hgate⟩, ?_⟩
    rw [← hlength, Nat.add_sub_cancel, ← htaken]
    exact encode_of_opcode hopcode

/-- A well-formed instruction is read back from its opcode and its operand bytes, whatever bytes follow. -/
theorem exists_opcode_of_wf {ext : Extensions} {i : Instr} (rest : List Byte) (hwf : i.wf ext = true) :
    ∃ op, encode i = op :: i.operandBytes ∧
      decodeOpcode ext op ((i.operandBytes ++ rest).getD 0 0) ((i.operandBytes ++ rest).getD 1 0) = i := by
  obtain ⟨hform, hgate⟩ := Bool.and_eq_true_iff.mp hwf
  obtain ⟨op, hopcode⟩ := Option.isSome_iff_exists.mp ((isSome_opcode i).mpr hform)
  refine ⟨op, encode_of_opcode hopcode, ?_⟩
  rcases inCell_of_opcode hopcode with rfl | ⟨hreads, hgates⟩
  · exact (decodeOpcode_eq_unimpl_iff ext op _ _).mpr hgate
  · exact build_of_cellReads op rest hreads ((hgates ext).symm.trans hgate)

/-- Everything the decoder does with an opcode byte and the bytes after it. -/
theorem decode_cons_eq_ok_iff {ext : Extensions} {op : Byte} {bs rest : List Byte} {i : Instr} :
    decode ext (op :: bs) = .ok i rest ↔
      decodeOpcode ext op (bs.getD 0 0) (bs.getD 1 0) = i ∧ i.length ≤ bs.length + 1 ∧ bs.drop (i.length - 1) = rest := by
  rw [decode]
  constructor
  · intro h
    split at h
    · cases h
    · cases h; exact ⟨rfl, by omega, rfl⟩
  · rintro ⟨rfl, hlength, rfl⟩
    exact if_neg (by omega)

/-- Settles O1: the cell of a well-formed instruction's opcode builds it from its operand bytes, and as many bytes are
taken as it has. -/
theorem encodeThenDecodeGivesInstruction : Obligations.EncodeThenDecodeGivesInstruction := by
  intro ext i rest hwf
  obtain ⟨op, hencode, hdecode⟩ := exists_opcode_of_wf rest hwf
  have hlength := operandBytes_length i
  rw [hencode, List.cons_append, decode_cons_eq_ok_iff]
  refine ⟨hdecode, by rw [List.length_append]; omega, ?_⟩
  rw [← hlength]
  exact List.drop_left

/-- Up to two bytes read off a list that has them, and the rest of the list, are the list. -/
theorem take_getD_append_drop {n : Nat} {bs : List Byte} (hn : n ≤ 2) (hlength : n ≤ bs.length) :
    [bs.getD 0 0, bs.getD 1 0].take n ++ bs.drop n = bs := by
  match n, hn, bs, hlength with
  | 0, _, _, _ => rfl
  | 1, _, _ :: _, _ => rfl
  | 2, _, _ :: _ :: _, _ => rfl

/-- Settles O2: what the decoder reads is well-formed, and its bytes are the opcode and the bytes that its length took. -/
theorem decodedInstructionReencodes : Obligations.DecodedInstructionReencodes := by
  intro ext bs rest i hdecode
  cases bs with
  | nil => cases hdecode
  | cons op bs =>
    obtain ⟨rfl, hlength, rfl⟩ := decode_cons_eq_ok_iff.mp hdecode
    obtain ⟨hwf, hencode⟩ := decodeOpcode_encodes ext op (bs.getD 0 0) (bs.getD 1 0)
    refine ⟨hwf, ?_⟩
    rw [hencode, List.cons_append, take_getD_append_drop (length_sub_one_le _) (by omega)]

/-- The instructions of one cell have equally many operand bytes. -/
theorem cellReads_length_eq {e : Entry} {bs bs' : List Byte} {i i' : Instr} (h : CellReads e bs i)
    (h' : CellReads e bs' i') : bs.length = bs'.length := by
  cases h <;> cases h' <;> rfl

/-- Settles O5: an open cell's instructions have equally many operand bytes, and behind a closed gate there is one
instruction, the unimplemented one. -/
theorem lengthIsFixedByTheOpcode : Obligations.LengthIsFixedByTheOpcode := by
  intro ext op b1 b2 c1 c2
  refine ⟨?_, (Laws.EncodeLength.of_bytes (operandBytes_length _)).2⟩
  cases hgate : cellGate ext (opcodeEntry op)
  case false => simp only [decodeOpcode, build_of_gate_closed _ _ _ hgate]
  case true =>
    obtain ⟨_, -, hreads⟩ := cellReads_build op b1 b2 hgate
    obtain ⟨_, -, hreads'⟩ := cellReads_build op c1 c2 hgate
    obtain ⟨-, hbytes, -⟩ := opcodeEntry_encodes op _ _ hreads
    obtain ⟨-, hbytes', -⟩ := opcodeEntry_encodes op _ _ hreads'
    have hsame := cellReads_length_eq hreads hreads'
    rw [← hbytes, ← hbytes'] at hsame
    rw [← operandBytes_length, ← operandBytes_length]
    exact congrArg (· + 1) hsame

end Sys2Proof.Machine

/-! What an instruction leaves unchanged (spec/10_state.md R20 to R38): one predicate relates an instruction, the state before
and a state after some of its writes, and each operation on the state has one rule that keeps it. -/

namespace Sys2Proof.Machine

/-- No flag changes from `p` to `p'` but those the instruction may write. -/
def KeepsFlagsBut (i : Instr) (p p' : Byte) : Prop := ∀ f, mayWriteFlag f i = false → getFlag f p' = getFlag f p

/-- From `s` to `t` no register and no flag changes but those the instruction may write, no latch, line, configuration,
schedule or reply does, and the memory stays in canonical form. -/
structure KeepsAllBut (i : Instr) (s t : State) : Prop where
  a : mayWriteA i = false → t.a = s.a
  x : mayWriteX i = false → t.x = s.x
  y : mayWriteY i = false → t.y = s.y
  sp : mayMoveS i = false → t.sp = s.sp
  flags : KeepsFlagsBut i s.p t.p
  hostSide : s.sameHostSide t
  engine : t.engine = s.engine ∨ i = .wai ∨ i = .stp ∨ ∃ op, i = .unimpl op
  memWf : s.mem.wf = true → t.mem.wf = true

section Flags

variable {i : Instr} {p p' : Byte}

theorem keepsFlagsBut_refl (i : Instr) (p : Byte) : KeepsFlagsBut i p p := fun _ _ => rfl

theorem KeepsFlagsBut.setFlag {g : Flag} (h : KeepsFlagsBut i p p') (on : Bool) (hg : mayWriteFlag g i = true) :
    KeepsFlagsBut i p (setFlag g on p') := by
  intro f hf
  have hne : f ≠ g := by rintro rfl; exact Bool.false_ne_true (hf.symm.trans hg)
  rw [getFlag_setFlag, if_neg hne, h f hf]

theorem KeepsFlagsBut.setNZ (h : KeepsFlagsBut i p p') (v : Byte) (hz : mayWriteFlag .z i = true)
    (hn : mayWriteFlag .n i = true) : KeepsFlagsBut i p (setNZ v p') :=
  (h.setFlag _ hz).setFlag _ hn

theorem keepsFlagsBut_of_all (p p' : Byte) (hall : ∀ f, mayWriteFlag f i = true) : KeepsFlagsBut i p p' :=
  fun f hf => absurd (hf.symm.trans (hall f)) Bool.false_ne_true

end Flags

namespace KeepsAllBut

variable {i : Instr} {s t : State}

theorem refl (i : Instr) (s : State) : KeepsAllBut i s s where
  a _ := rfl
  x _ := rfl
  y _ := rfl
  sp _ := rfl
  flags _ _ := rfl
  hostSide := ⟨rfl, rfl, rfl, rfl, rfl, rfl, rfl, rfl⟩
  engine := .inl rfl
  memWf := id

theorem setA (h : KeepsAllBut i s t) (v : Byte) (hi : mayWriteA i = true) : KeepsAllBut i s (t.setA v) :=
  { h with a := fun hno => absurd (hno.symm.trans hi) Bool.false_ne_true }

theorem setX (h : KeepsAllBut i s t) (v : Byte) (hi : mayWriteX i = true) : KeepsAllBut i s (t.setX v) :=
  { h with x := fun hno => absurd (hno.symm.trans hi) Bool.false_ne_true }

theorem setY (h : KeepsAllBut i s t) (v : Byte) (hi : mayWriteY i = true) : KeepsAllBut i s (t.setY v) :=
  { h with y := fun hno => absurd (hno.symm.trans hi) Bool.false_ne_true }

theorem setSp (h : KeepsAllBut i s t) (v : Byte) (hi : mayMoveS i = true) : KeepsAllBut i s (t.setSp v) :=
  { h with sp := fun hno => absurd (hno.symm.trans hi) Bool.false_ne_true }

theorem setP {p' : Byte} (h : KeepsAllBut i s t) (hp : KeepsFlagsBut i t.p p') : KeepsAllBut i s (t.setP p') :=
  { h with flags := fun f hf => (hp f hf).trans (h.flags f hf) }

theorem setPc (h : KeepsAllBut i s t) (v : Word) : KeepsAllBut i s (t.setPc v) := { h with }

theorem addDraws (h : KeepsAllBut i s t) (k : Nat) : KeepsAllBut i s (t.addDraws k) := { h with }

theorem write (h : KeepsAllBut i s t) (b : Word) (v : Byte) : KeepsAllBut i s (t.write b v) :=
  { h with memWf := fun hwf => write_wf b v (h.memWf hwf) }

theorem setEngine (h : KeepsAllBut i s t) (e : Engine) (hi : i = .wai ∨ i = .stp ∨ ∃ op, i = .unimpl op) :
    KeepsAllBut i s (t.setEngine e) :=
  { h with engine := .inr hi }

theorem putFlag {g : Flag} (h : KeepsAllBut i s t) (on : Bool) (hg : mayWriteFlag g i = true) :
    KeepsAllBut i s (t.putFlag g on) :=
  h.setP ((keepsFlagsBut_refl i t.p).setFlag on hg)

theorem nz (h : KeepsAllBut i s t) (v : Byte) (hz : mayWriteFlag .z i = true) (hn : mayWriteFlag .n i = true) :
    KeepsAllBut i s (t.nz v) :=
  h.setP ((keepsFlagsBut_refl i t.p).setNZ v hz hn)

theorem loadA (h : KeepsAllBut i s t) (v : Byte) (ha : mayWriteA i = true) (hz : mayWriteFlag .z i = true)
    (hn : mayWriteFlag .n i = true) : KeepsAllBut i s (t.loadA v) :=
  (h.setA v ha).nz v hz hn

theorem loadX (h : KeepsAllBut i s t) (v : Byte) (hx : mayWriteX i = true) (hz : mayWriteFlag .z i = true)
    (hn : mayWriteFlag .n i = true) : KeepsAllBut i s (t.loadX v) :=
  (h.setX v hx).nz v hz hn

theorem loadY (h : KeepsAllBut i s t) (v : Byte) (hy : mayWriteY i = true) (hz : mayWriteFlag .z i = true)
    (hn : mayWriteFlag .n i = true) : KeepsAllBut i s (t.loadY v) :=
  (h.setY v hy).nz v hz hn

theorem addSub (h : KeepsAllBut i s t) (bin dec : Byte → Byte → Bool → Sum) (m : Byte) (ha : mayWriteA i = true)
    (hc : mayWriteFlag .c i = true) (hv : mayWriteFlag .v i = true) (hz : mayWriteFlag .z i = true)
    (hn : mayWriteFlag .n i = true) : KeepsAllBut i s (t.addSub bin dec m) := by
  have hp := keepsFlagsBut_refl i t.p
  have htake (r : Sum) : KeepsAllBut i s (t.takeSum r) :=
    (h.setP (((hp.setFlag _ hc).setFlag _ hv).setNZ r.r hz hn)).setA _ ha
  have hdraw : KeepsAllBut i s t.drawSum :=
    ((h.setP ((((hp.setFlag _ hc).setFlag _ hz).setFlag _ hn).setFlag _ hv)).setA _ ha).addDraws 5
  unfold State.addSub
  split_ifs
  · exact htake _
  · exact hdraw
  · exact htake _

theorem compare (h : KeepsAllBut i s t) (r m : Byte) (hc : mayWriteFlag .c i = true) (hz : mayWriteFlag .z i = true)
    (hn : mayWriteFlag .n i = true) : KeepsAllBut i s (t.compare r m) :=
  h.setP ((((keepsFlagsBut_refl i t.p).setFlag _ hc).setFlag _ hz).setFlag _ hn)

theorem modifyNZ (h : KeepsAllBut i s t) (b : Word) (f : Byte → Byte) (hz : mayWriteFlag .z i = true)
    (hn : mayWriteFlag .n i = true) : KeepsAllBut i s (t.modifyNZ b f) :=
  (h.write b _).nz _ hz hn

theorem testModify (h : KeepsAllBut i s t) (b : Word) (f : Byte → Byte) (hz : mayWriteFlag .z i = true) :
    KeepsAllBut i s (t.testModify b f) :=
  (h.setP ((keepsFlagsBut_refl i t.p).setFlag _ hz)).write b _

theorem shiftAcc (h : KeepsAllBut i s t) (f : Byte → Bool → Byte × Bool) (ha : mayWriteA i = true)
    (hc : mayWriteFlag .c i = true) (hz : mayWriteFlag .z i = true) (hn : mayWriteFlag .n i = true) :
    KeepsAllBut i s (t.shiftOp f .acc) :=
  (h.setA _ ha).setP (((keepsFlagsBut_refl i t.p).setFlag _ hc).setNZ _ hz hn)

theorem shiftMem (h : KeepsAllBut i s t) (f : Byte → Bool → Byte × Bool) (m : Addr)
    (hc : mayWriteFlag .c i = true) (hz : mayWriteFlag .z i = true) (hn : mayWriteFlag .n i = true) :
    KeepsAllBut i s (t.shiftOp f (.mem m)) :=
  (h.write _ _).setP (((keepsFlagsBut_refl i t.p).setFlag _ hc).setNZ _ hz hn)

theorem push (h : KeepsAllBut i s t) (v : Byte) (hs : mayMoveS i = true) : KeepsAllBut i s (t.push v) :=
  (h.write _ v).setSp _ hs

theorem pull (h : KeepsAllBut i s t) (hs : mayMoveS i = true) : KeepsAllBut i s t.pull.2 := h.setSp _ hs

theorem pushWord (h : KeepsAllBut i s t) (w : Word) (hs : mayMoveS i = true) : KeepsAllBut i s (t.pushWord w) :=
  (h.push _ hs).push _ hs

theorem pullWord (h : KeepsAllBut i s t) (hs : mayMoveS i = true) : KeepsAllBut i s t.pullWord.2 :=
  (h.pull hs).pull hs

theorem branch (h : KeepsAllBut i s t) (cond : Bool) (r : Byte) : KeepsAllBut i s (t.branch cond r) := by
  rw [branch_eq]; exact h.setPc _

theorem branchBit (h : KeepsAllBut i s t) (b : Nat) (on : Bool) (z r : Byte) :
    KeepsAllBut i s (t.branchBit b on z r) := by
  rw [branchBit_eq]; exact h.setPc _

theorem enterInterrupt (h : KeepsAllBut i s t) (pushed : Byte) (vector : Word) (hs : mayMoveS i = true)
    (hi : mayWriteFlag .i i = true) (hd : mayWriteFlag .d i = true) :
    KeepsAllBut i s (t.enterInterrupt pushed true vector) := by
  have hpushed := (h.pushWord t.pc hs).push pushed hs
  have hmasked := hpushed.setP (((keepsFlagsBut_refl i _).setFlag true hi).setFlag false hd)
  exact hmasked.setPc _

theorem returnFromInterrupt (h : KeepsAllBut i s t) (hs : mayMoveS i = true) (hall : ∀ f, mayWriteFlag f i = true) :
    KeepsAllBut i s t.returnFromInterrupt :=
  (((h.pull hs).setP (keepsFlagsBut_of_all _ _ hall)).pullWord hs).setPc _

end KeepsAllBut

open KeepsAllBut in
/-- Every instruction completes, and keeps all but what it may write. -/
theorem exec_keepsAllBut : ∀ (i : Instr) (s : State), ∃ t, exec i s = .next t ∧ KeepsAllBut i s t
  | .lda _, s | .txa, s | .tya, s | .and _, s | .ora _, s | .eor _, s | .incA, s | .decA, s =>
    ⟨_, rfl, (refl _ s).loadA _ rfl rfl rfl⟩
  | .ldx _, s | .tax, s | .tsx, s | .inx, s | .dex, s => ⟨_, rfl, (refl _ s).loadX _ rfl rfl rfl⟩
  | .ldy _, s | .tay, s | .iny, s | .dey, s => ⟨_, rfl, (refl _ s).loadY _ rfl rfl rfl⟩
  | .sta _, s | .stx _, s | .sty _, s | .stz _, s => ⟨_, rfl, (refl _ s).write _ _⟩
  | .txs, s => ⟨_, rfl, (refl _ s).setSp _ rfl⟩
  | .adc _, s | .sbc _, s => ⟨_, rfl, (refl _ s).addSub _ _ _ rfl rfl rfl rfl rfl⟩
  | .cmp _, s | .cpx _, s | .cpy _, s => ⟨_, rfl, (refl _ s).compare _ _ rfl rfl rfl⟩
  | .bit _, s =>
    ⟨_, rfl, (refl _ s).setP ((((keepsFlagsBut_refl _ s.p).setFlag _ rfl).setFlag _ rfl).setFlag _ rfl)⟩
  | .bitImm _, s => ⟨_, rfl, (refl _ s).setP ((keepsFlagsBut_refl _ s.p).setFlag _ rfl)⟩
  | .inc _, s | .dec _, s => ⟨_, rfl, (refl _ s).modifyNZ _ _ rfl rfl⟩
  | .tsb _, s | .trb _, s => ⟨_, rfl, (refl _ s).testModify _ _ rfl⟩
  | .asl .acc, s | .lsr .acc, s | .rol .acc, s | .ror .acc, s => ⟨_, rfl, (refl _ s).shiftAcc _ rfl rfl rfl rfl⟩
  | .asl (.mem _), s | .lsr (.mem _), s | .rol (.mem _), s | .ror (.mem _), s =>
    ⟨_, rfl, (refl _ s).shiftMem _ _ rfl rfl rfl⟩
  | .clc, s | .sec, s | .cli, s | .sei, s | .cld, s | .sed, s | .clv, s => ⟨_, rfl, (refl _ s).putFlag _ rfl⟩
  | .pha, s | .php, s | .phx, s | .phy, s => ⟨_, rfl, (refl _ s).push _ rfl⟩
  | .pla, s => ⟨_, rfl, ((refl _ s).pull rfl).loadA _ rfl rfl rfl⟩
  | .plx, s => ⟨_, rfl, ((refl _ s).pull rfl).loadX _ rfl rfl rfl⟩
  | .ply, s => ⟨_, rfl, ((refl _ s).pull rfl).loadY _ rfl rfl rfl⟩
  | .plp, s => ⟨_, rfl, ((refl _ s).pull rfl).setP (keepsFlagsBut_of_all _ _ fun _ => rfl)⟩
  | .bpl _, s | .bmi _, s | .bvc _, s | .bvs _, s | .bcc _, s | .bcs _, s | .bne _, s | .beq _, s | .bra _, s =>
    ⟨_, rfl, (refl _ s).branch _ _⟩
  | .jmp _, s | .jmpInd _, s | .jmpIax _, s => ⟨_, rfl, (refl _ s).setPc _⟩
  | .jsr _, s => ⟨_, rfl, ((refl _ s).pushWord _ rfl).setPc _⟩
  | .rts, s => ⟨_, rfl, ((refl _ s).pullWord rfl).setPc _⟩
  | .rti, s => ⟨_, rfl, (refl _ s).returnFromInterrupt rfl fun _ => rfl⟩
  | .brk _, s => ⟨_, rfl, (refl _ s).enterInterrupt _ _ rfl rfl rfl⟩
  | .nop, s => ⟨_, rfl, refl _ s⟩
  | .rmb0 _, s | .rmb1 _, s | .rmb2 _, s | .rmb3 _, s | .rmb4 _, s | .rmb5 _, s | .rmb6 _, s | .rmb7 _, s
  | .smb0 _, s | .smb1 _, s | .smb2 _, s | .smb3 _, s | .smb4 _, s | .smb5 _, s | .smb6 _, s | .smb7 _, s =>
    ⟨_, rfl, (refl _ s).write _ _⟩
  | .bbr0 _ _, s | .bbr1 _ _, s | .bbr2 _ _, s | .bbr3 _ _, s | .bbr4 _ _, s | .bbr5 _ _, s | .bbr6 _ _, s
  | .bbr7 _ _, s | .bbs0 _ _, s | .bbs1 _ _, s | .bbs2 _ _, s | .bbs3 _ _, s | .bbs4 _ _, s | .bbs5 _ _, s
  | .bbs6 _ _, s | .bbs7 _ _, s => ⟨_, rfl, (refl _ s).branchBit _ _ _ _⟩
  | .wai, s => ⟨_, rfl, (refl _ s).setEngine _ (.inl rfl)⟩
  | .stp, s => ⟨_, rfl, (refl _ s).setEngine _ (.inr (.inl rfl))⟩
  | .unimpl op, s => by
    have hexec : exec (.unimpl op) s = execUnimpl op s := rfl
    rw [hexec, execUnimpl]
    cases s.cfg.unimplPolicy with
    | fail => exact ⟨_, rfl, (refl _ s).setEngine _ (.inr (.inr ⟨op, rfl⟩))⟩
    | nop => exact ⟨_, rfl, (refl _ s).setPc _⟩

/-- What an instruction may write bounds every completed run of it. -/
theorem keepsAllBut_of_exec {i : Instr} {s t : State} (hexec : exec i s = .next t) : KeepsAllBut i s t := by
  obtain ⟨t', hexec', hkeeps⟩ := exec_keepsAllBut i s
  obtain rfl : t' = t := by simpa [hexec'] using hexec
  exact hkeeps

/-- Settles O56: every instruction completes and keeps the latches and the host's side, whatever registers it may write. -/
theorem instructionsLeaveLatchesAndHostSide : Obligations.InstructionsLeaveLatchesAndHostSide := by
  intro i s
  obtain ⟨t, hexec, hkeeps⟩ := exec_keepsAllBut i s
  exact ⟨t, hexec, hkeeps.hostSide, hkeeps.engine⟩

/-- Settles O57: a completed instruction keeps every flag but those it may write. -/
theorem flagsHaveOnlyTheirWriters : Obligations.FlagsHaveOnlyTheirWriters := fun f _ _ _ hexec hno =>
  (keepsAllBut_of_exec hexec).flags f hno

/-- Settles O58: a completed instruction keeps every register but those it may write. -/
theorem registersHaveOnlyTheirWriters : Obligations.RegistersHaveOnlyTheirWriters := by
  intro i s t hexec
  have hkeeps := keepsAllBut_of_exec hexec
  exact ⟨hkeeps.a, hkeeps.x, hkeeps.y, hkeeps.sp⟩

end Sys2Proof.Machine

/-! The invariant of a run (spec/10_state.md R26, R27, R41, R404; spec/47_pause_unimplemented.md R320, R324; R342). A core that
is on keeps the canonical memory and the stored B and U through a service and an instruction; the engine's promise is then
that of the pause opcodes, of the unimplemented path or of Running. -/

namespace Sys2Proof.Machine

/-- What a core that is on holds in every engine state: canonical memory, and B and U stored as 1 (R26, R27). -/
def State.OnInv (s : State) : Prop := s.mem.wf = true ∧ s.storedBU

section Service

variable {s : State}

theorem push_wf (v : Byte) (h : s.mem.wf = true) : (s.push v).mem.wf = true := write_wf _ v h

theorem enterInterrupt_wf (pushed : Byte) (masks : Bool) (vector : Word) (h : s.mem.wf = true) :
    (s.enterInterrupt pushed masks vector).mem.wf = true := by
  have hpushed : ((s.pushWord s.pc).push pushed).mem.wf = true := push_wf _ (push_wf _ (push_wf _ h))
  cases masks <;> exact hpushed

/-- Masking writes I and D, so B and U stay stored. -/
theorem storedBU_of_wroteMask {t : State} (hmask : WroteMask s.p t.p) (h : s.storedBU) : t.storedBU :=
  ⟨(hmask .b).trans h.1, (hmask .u).trans h.2⟩

theorem enterInterrupt_storedBU (pushed : Byte) (masks : Bool) (vector : Word) (h : s.storedBU) :
    (s.enterInterrupt pushed masks vector).storedBU := by
  obtain ⟨p', hframe, hmask, -⟩ := enterInterrupt_entered s pushed masks vector
  have hp : (s.enterInterrupt pushed masks vector).p = p' := congrArg State.p hframe
  subst hp
  cases masks
  case false => rw [State.storedBU, show (s.enterInterrupt pushed false vector).p = s.p from hmask]; exact h
  case true => exact storedBU_of_wroteMask hmask h

theorem resetService_storedBU (h : s.storedBU) : s.resetService.storedBU := by
  rw [resetService_eq]
  cases hmasks : s.cfg.resetMasks
  case false => simpa [State.storedBU] using h
  case true => exact storedBU_of_wroteMask (s := s) (maskInterrupts_wrote s.p) h

/-- A service keeps canonical memory and the stored B and U. -/
theorem attend_onInv (h : s.OnInv) : s.attend.OnInv := by
  obtain ⟨hwf, hBU⟩ := h
  unfold State.attend
  split_ifs
  · refine ⟨?_, resetService_storedBU hBU⟩
    rw [resetService_eq]; exact hwf
  · exact ⟨enterInterrupt_wf _ _ _ hwf, enterInterrupt_storedBU _ _ _ hBU⟩
  · exact ⟨enterInterrupt_wf _ _ _ hwf, enterInterrupt_storedBU _ _ _ hBU⟩
  · exact ⟨hwf, hBU⟩

end Service

/-- No instruction writes B or U but the two that pull P (R26, R27). -/
theorem keepsBU_or_pullsP (i : Instr) :
    (mayWriteFlag .b i = false ∧ mayWriteFlag .u i = false) ∨ i = .plp ∨ i = .rti := by
  cases i
  case plp => exact .inr (.inl rfl)
  case rti => exact .inr (.inr rfl)
  all_goals exact .inl ⟨rfl, rfl⟩

/-- A P that a pull gives has B and U as 1. -/
theorem storedBU_of_withBU {t : State} {v : Byte} (hp : t.p = withBU v) : t.storedBU := by
  simp [State.storedBU, hp, getFlag_withBU]

/-- An instruction keeps canonical memory and the stored B and U. -/
theorem exec_onInv {i : Instr} {s t : State} (hexec : exec i s = .next t) (h : s.OnInv) : t.OnInv := by
  have hkeeps := keepsAllBut_of_exec hexec
  refine ⟨hkeeps.memWf h.1, ?_⟩
  rcases keepsBU_or_pullsP i with ⟨hb, hu⟩ | rfl | rfl
  · exact ⟨(hkeeps.flags .b hb).trans h.2.1, (hkeeps.flags .u hu).trans h.2.2⟩
  · rw [exec_plp] at hexec; cases hexec; exact storedBU_of_withBU rfl
  · cases hexec; exact storedBU_of_withBU rfl

/-- The instruction fetched is one of the set under the toggles (R82, R103, R104). -/
theorem fetch_gateOpen (s : State) : s.fetch.gateOpen s.cfg.ext = true :=
  (Bool.and_eq_true_iff.mp (decodeOpcode_encodes _ _ _ _).1).2

theorem inv_of_running {s : State} (hengine : s.engine = .running) (h : s.OnInv) : s.Inv :=
  ⟨h.1, by simpa only [State.engineInv, hengine] using h.2⟩

theorem inv_of_paused {s : State} (hengine : s.engine = .paused) (hpause : s.cfg.pauseExt = true) (h : s.OnInv) :
    s.Inv :=
  ⟨h.1, by simpa only [State.engineInv, hengine] using ⟨h.2, hpause⟩⟩

/-- Every completed instruction of the set keeps the invariant of a Running core. -/
theorem exec_inv {i : Instr} {s t : State} (hexec : exec i s = .next t) (hgate : i.gateOpen s.cfg.ext = true)
    (hengine : s.engine = .running) (h : s.OnInv) : t.Inv := by
  have ht : t.OnInv := exec_onInv hexec h
  rcases (keepsAllBut_of_exec hexec).engine with hkept | rfl | rfl | ⟨op, rfl⟩
  · exact inv_of_running (hkept.trans hengine) ht
  · cases hexec; exact inv_of_paused rfl hgate ht
  · cases hexec; exact inv_of_paused rfl hgate ht
  · have hexec' : execUnimpl op s = .next t := hexec
    cases hpolicy : s.cfg.unimplPolicy with
    | fail =>
      rw [execUnimpl, hpolicy] at hexec'
      cases hexec'
      exact ⟨ht.1, ht.2, (BitVec.sub_add_cancel s.pc 1).symm, hpolicy, hgate⟩
    | nop =>
      rw [execUnimpl, hpolicy] at hexec'
      cases hexec'
      exact inv_of_running hengine ht

/-- One instruction of a Running core, fetched at pc, keeps the invariant. -/
theorem nextInstruction_inv {s t : State} (hexec : s.nextInstruction = .next t) (hengine : s.engine = .running)
    (h : s.OnInv) : t.Inv :=
  exec_inv hexec (fetch_gateOpen s) hengine h

/-- Each engine state from which the core's turn runs an iteration promises what a core that is on holds. -/
theorem onInv_of_mayRun {s : State} (hinv : s.Inv) (hrun : MayRun s) : s.OnInv := by
  obtain ⟨hwf, hengine⟩ := hinv
  refine ⟨hwf, ?_⟩
  rcases hrun.2 with hrunning | ⟨hwaiting, -⟩ | ⟨hpaused, -⟩
  · simpa only [State.engineInv, hrunning] using hengine
  · simp only [State.engineInv, hwaiting] at hengine
    simp only [State.storedBU, hengine.2]
    decide
  · simp only [State.engineInv, hpaused] at hengine
    exact hengine.1

section HostCalls

variable {s : State}

/-- `turn_on` stores B and U, so P is 0x30 whichever of the two values Off has (R404). -/
theorem turnOn_inv (h : s.Inv) : s.turnOn.Inv := by
  obtain ⟨hwf, hengine⟩ := h
  unfold State.turnOn
  split
  case h_1 hoff =>
    simp only [State.engineInv, hoff] at hengine
    obtain ⟨hzero, hp⟩ := hengine
    have hbu : withBU s.p = 0x30 := by rcases hp with hp | hp <;> rw [hp] <;> rfl
    exact ⟨hwf, hzero, hbu⟩
  all_goals exact ⟨hwf, hengine⟩

theorem turnOff_inv (h : s.Inv) : s.turnOff.Inv := by
  unfold State.turnOff
  split
  case h_1 => exact h
  all_goals exact ⟨h.1, ⟨rfl, rfl, rfl, rfl, rfl⟩, .inr rfl⟩

/-- Off promises nothing of the configuration, and a call elsewhere is refused (R361). -/
theorem configure_inv (c : Settings) (h : s.Inv) : (s.configure c).Inv := by
  obtain ⟨hwf, hengine⟩ := h
  unfold State.configure
  split
  case h_1 hoff =>
    simp only [State.engineInv, hoff] at hengine
    refine ⟨hwf, ?_⟩
    simp only [State.engineInv, hoff]
    exact hengine
  all_goals exact ⟨hwf, hengine⟩

theorem hostRead_inv (a : Word) (h : s.Inv) : (s.hostRead a).Inv := by
  unfold State.hostRead
  split_ifs <;> exact h

theorem hostWrite_inv (a : Word) (v : Byte) (h : s.Inv) : (s.hostWrite a v).Inv := by
  unfold State.hostWrite
  split_ifs
  · exact ⟨write_wf a v h.1, h.2⟩
  · exact h

/-- Every host operation keeps the invariant; a line and the clock period bear on no promise. -/
theorem hostStep_inv (op : HostOp) (h : s.Inv) : (hostStep op s).Inv := by
  cases op with
  | turnOn => exact turnOn_inv h
  | turnOff => exact turnOff_inv h
  | failOnUnimplemented | nopOnUnimplemented | vendorExtensions b | pauseExtensions b => exact configure_inv _ h
  | memRead a => exact hostRead_inv a h
  | memWrite a v => exact hostWrite_inv a v h
  | resetLow | resetHigh | nmiLow | nmiHigh | irqLow | irqHigh | changePeriod d => exact h

end HostCalls

/-- Settles O55: a host operation and a turn with no step keep the invariant; an iteration runs from what a core that is on
holds, which a service keeps, and every instruction of the set keeps the invariant from there. -/
theorem everyStepKeepsInvariant : Obligations.EveryStepKeepsInvariant := by
  intro s t hinv hstep
  rcases step_cases hstep with ⟨op, l, -, rfl⟩ | ⟨-, rfl⟩ | ⟨-, hrun, u, hu, hexec⟩
  · exact hostStep_inv op hinv
  · exact hinv
  · have hon : (s.turnTaken.setEngine .running).OnInv := show s.OnInv from onInv_of_mayRun hinv hrun
    rcases hu with rfl | rfl
    · exact nextInstruction_inv hexec rfl hon
    · exact nextInstruction_inv hexec (attend_frame _).1 (attend_onInv hon)

end Sys2Proof.Machine

/-! The invariant at construction and at reset, and the boot between the two (spec/10_state.md R41; R400, R401). -/

namespace Sys2Proof.Machine

/-- Settles O54: construction is an Off core with zero registers, and reset a Running one with B and U stored. -/
theorem resetMeetsInvariant : Obligations.ResetMeetsInvariant :=
  ⟨⟨rfl, ⟨rfl, rfl, rfl, rfl, rfl⟩, .inl rfl⟩, inv_of_running rfl ⟨reset_mem_wf, rfl, rfl⟩⟩

/-- Settles O53: three host operations on the fields that construction gives, and one reset service. -/
theorem bootFromConstructionGivesReset : Obligations.BootFromConstructionGivesReset :=
  ⟨⟨rfl, rfl, rfl, rfl, rfl, rfl, rfl, rfl, rfl, rfl, rfl, rfl⟩, _, rfl, rfl, rfl, rfl, rfl, rfl⟩

end Sys2Proof.Machine

/-! The core's turn (spec/60_exceptions.md R347 to R350): what it is in each engine state, and that it always gives a next
state. -/

namespace Sys2Proof.Machine

section CoreTurn

variable {s : State}

/-- A Running core with the reset line high runs an iteration (R350). -/
theorem coreStep_of_running (hengine : s.engine = .running) (hline : s.resetLineHigh = true) :
    s.coreStep = s.iteration := by
  rw [State.coreStep, hengine]
  exact if_pos hline

/-- A waiting core starts the loop on a latched reset with the line high (R349). -/
theorem coreStep_of_waiting (hengine : s.engine = .waitingForReset) (hpending : s.resetPending = true)
    (hline : s.resetLineHigh = true) : s.coreStep = (s.setEngine .running).iteration := by
  rw [State.coreStep, hengine]
  exact if_pos (Bool.and_eq_true_iff.mpr ⟨hpending, hline⟩)

/-- Attention wakes a paused core with the reset line high (R321). -/
theorem coreStep_of_paused (hengine : s.engine = .paused) (hline : s.resetLineHigh = true)
    (hattention : s.attention = true) : s.coreStep = (s.setEngine .running).iteration := by
  rw [State.coreStep, hengine]
  exact if_pos (Bool.and_eq_true_iff.mpr ⟨hline, hattention⟩)

/-- The core has no step from which `MayRun` does not hold (R347). -/
theorem coreStep_of_not_mayRun (hrun : ¬MayRun s) : s.coreStep = .next s := by
  rw [State.coreStep]
  cases hengine : s.engine with
  | off => rfl
  | faulted addr op => rfl
  | running => exact if_neg fun hline => hrun ⟨hline, .inl hengine⟩
  | waitingForReset =>
    refine if_neg fun hguard => ?_
    obtain ⟨hpending, hline⟩ := Bool.and_eq_true_iff.mp hguard
    exact hrun ⟨hline, .inr (.inl ⟨hengine, hpending⟩)⟩
  | paused =>
    refine if_neg fun hguard => ?_
    obtain ⟨hline, hattention⟩ := Bool.and_eq_true_iff.mp hguard
    exact hrun ⟨hline, .inr (.inr ⟨hengine, hattention⟩)⟩

/-- A core's turn without a step takes the turn and changes nothing else. -/
theorem step_of_not_mayRun (hturn : s.coreTurn) (hrun : ¬MayRun s) : step s = .next s.turnTaken := by
  rw [step_of_coreTurn hturn]
  exact coreStep_of_not_mayRun hrun

/-- An instruction always completes, so an iteration does. -/
theorem exists_iteration_eq_next (s : State) : ∃ t, s.iteration = .next t := by
  have hnext (u : State) : ∃ t, u.nextInstruction = .next t := by
    obtain ⟨t, hexec, -⟩ := exec_keepsAllBut u.fetch (u.setPc (u.pc + BitVec.ofNat 16 u.fetch.length))
    exact ⟨t, hexec⟩
  unfold State.iteration
  split_ifs
  · exact hnext s.attend
  · exact hnext s

/-- The core's turn always gives a next state. -/
theorem exists_coreStep_eq_next (s : State) : ∃ t, s.coreStep = .next t := by
  by_cases hrun : MayRun s
  · obtain ⟨hline, hrunning | ⟨hwaiting, hpending⟩ | ⟨hpaused, hattention⟩⟩ := hrun
    · rw [coreStep_of_running hrunning hline]; exact exists_iteration_eq_next s
    · rw [coreStep_of_waiting hwaiting hpending hline]; exact exists_iteration_eq_next _
    · rw [coreStep_of_paused hpaused hline hattention]; exact exists_iteration_eq_next _
  · exact ⟨s, coreStep_of_not_mayRun hrun⟩

/-- A turn is the core's or a host operation. -/
theorem coreTurn_or_hostTurn (s : State) : s.coreTurn ∨ ∃ op l, s.schedule = .host op :: l := by
  rcases hschedule : s.schedule with - | ⟨_ | op, l⟩
  · exact .inl (.inl hschedule)
  · exact .inl (.inr ⟨l, hschedule⟩)
  · exact .inr ⟨op, l, rfl⟩

/-- It is not the core's turn when a host operation is next. -/
theorem not_coreTurn_of_hostTurn {op : HostOp} {l : List Turn} (hschedule : s.schedule = .host op :: l) : ¬s.coreTurn := by
  rintro (hnil | ⟨l', hcore⟩)
  · cases hschedule.symm.trans hnil
  · cases hschedule.symm.trans hcore

end CoreTurn

/-- Settles O60: a host operation is one next state, and the core's turn always has one. -/
theorem everyStepGivesANextState : Obligations.EveryStepGivesANextState := by
  intro s
  rcases coreTurn_or_hostTurn s with hturn | ⟨op, l, hschedule⟩
  · rw [step_of_coreTurn hturn]; exact exists_coreStep_eq_next _
  · exact ⟨_, step_of_hostTurn hschedule⟩

/-- Settles O48: in none of the five cases is the core in a state from which it may run. -/
theorem waitingEnginesDoNotStep : Obligations.WaitingEnginesDoNotStep := by
  intro s hturn
  refine ⟨fun hoff => ?off, fun hwaiting hguard => ?waiting, fun hrunning hline => ?running,
    fun hpaused hguard => ?paused, fun addr op hfaulted => ?faulted⟩ <;> apply step_of_not_mayRun hturn <;>
    rintro ⟨hhigh, hrun⟩
  case off => simp [hoff] at hrun
  case waiting =>
    simp only [hwaiting, reduceCtorEq, true_and, false_and, false_or, or_false] at hrun
    exact hguard ⟨hrun, hhigh⟩
  case running => exact Bool.false_ne_true (hline.symm.trans hhigh)
  case paused =>
    simp only [hpaused, reduceCtorEq, true_and, false_and, false_or] at hrun
    exact hguard ⟨hhigh, hrun⟩
  case faulted => simp [hfaulted] at hrun

/-- Settles O49: the waiting core's turn and the Running core's are the same iteration. -/
theorem waitingEnginesStartRunning : Obligations.WaitingEnginesStartRunning := by
  intro s hturn hline
  have hrunning : step { s with engine := .running } = (s.turnTaken.setEngine .running).iteration :=
    (step_of_coreTurn (s := { s with engine := .running }) hturn).trans (coreStep_of_running rfl hline)
  rw [hrunning, step_of_coreTurn hturn]
  exact ⟨fun hwaiting hpending => coreStep_of_waiting hwaiting hpending hline,
    fun hpaused hattention => coreStep_of_paused hpaused hline hattention⟩

section Iteration

variable {s : State} {i : Instr} {rest : List Byte}

/-- A Running core's turn is an iteration (R350). -/
theorem step_of_canRun (hrun : s.canRun) : step s = s.turnTaken.iteration := by
  obtain ⟨hengine, hline, hturn⟩ := hrun
  rw [step_of_coreTurn hturn]
  exact coreStep_of_running hengine hline

/-- The instruction that runs is the one the decoder reads at pc (R82). -/
theorem nextInstruction_of_decode (hdecode : decode s.cfg.ext s.bytesAtPc = .ok i rest) :
    s.nextInstruction = exec i (s.setPc (s.pc + BitVec.ofNat 16 i.length)) := by
  rw [State.nextInstruction, fetch_of_decode hdecode]

end Iteration

/-- Settles O46: with nothing to service the iteration is one instruction at pc. -/
theorem stepRunsDecodedInstruction : Obligations.StepRunsDecodedInstruction := by
  intro s i rest hrun hattention hdecode
  have hcalm : s.turnTaken.attention ≠ true := Bool.eq_false_iff.mp hattention
  rw [step_of_canRun hrun, State.iteration, if_neg hcalm]
  exact nextInstruction_of_decode hdecode

/-- Settles O47: with attention the iteration is one instruction at the pc that `attend` left. -/
theorem stepServicesThenRuns : Obligations.StepServicesThenRuns := by
  rintro s _ i rest hrun hattention rfl hdecode
  have hneeded : s.turnTaken.attention = true := hattention
  rw [step_of_canRun hrun, State.iteration, if_pos hneeded]
  exact nextInstruction_of_decode hdecode

end Sys2Proof.Machine

/-! The host's operations (spec/60_exceptions.md R343 to R348, R358, R361): each in the engine states that allow it and in the
others. -/

namespace Sys2Proof.Machine

section Lines

variable {s : State}

/-- A rising edge of the reset line latches a reset (R345). -/
theorem resetHigh_of_low (hline : s.resetLineHigh = false) :
    s.resetHigh = { s with resetLineHigh := true, resetPending := true, reply := .done } := by
  simp [State.resetHigh, hline]

/-- Without an edge `reset_high` leaves the latch and the level (R345). -/
theorem resetHigh_of_high (hline : s.resetLineHigh = true) : s.resetHigh = s.answer .done := by
  simp [State.resetHigh, State.answer, hline]

/-- A falling edge of the NMI line latches an NMI (R345). -/
theorem nmiLow_of_high (hline : s.nmiLineHigh = true) :
    s.nmiLow = { s with nmiLineHigh := false, nmiPending := true, reply := .done } := by
  simp [State.nmiLow, hline]

/-- Without an edge `nmi_low` leaves the latch and the level (R345). -/
theorem nmiLow_of_low (hline : s.nmiLineHigh = false) : s.nmiLow = s.answer .done := by
  simp [State.nmiLow, State.answer, hline]

end Lines

/-- Settles O50: four operations set a level, and the two with an edge are taken by the line's level before. -/
theorem lineOperationsLatchEdges : Obligations.LineOperationsLatchEdges := by
  intro s l after
  have after_of_hostStep {op : HostOp} {t : State}
      (hstep : hostStep op (s.setSchedule l) = { t with schedule := l, reply := .done }) : after op t := by
    intro hschedule
    rw [step_of_hostTurn hschedule, hstep]
  exact ⟨after_of_hostStep rfl, fun hlow => after_of_hostStep (resetHigh_of_low hlow),
    fun hhigh => after_of_hostStep (resetHigh_of_high hhigh), after_of_hostStep rfl,
    fun hhigh => after_of_hostStep (nmiLow_of_high hhigh), fun hlow => after_of_hostStep (nmiLow_of_low hlow),
    after_of_hostStep rfl, after_of_hostStep rfl⟩

section Lifecycle

variable {s : State}

/-- `turn_on` in Off (R348). -/
theorem turnOn_of_off (hoff : s.engine = .off) :
    s.turnOn = ((s.setP (withBU s.p)).setEngine .waitingForReset).answer .done := by
  rw [State.turnOn, hoff]

/-- `turn_on` elsewhere is MISUSE (R343). -/
theorem turnOn_of_not_off (hon : s.engine ≠ .off) : s.turnOn = s.answer .misuse := by
  unfold State.turnOn
  split
  case h_1 hoff => exact absurd hoff hon
  all_goals rfl

/-- `turn_off` in Off is MISUSE (R343). -/
theorem turnOff_of_off (hoff : s.engine = .off) : s.turnOff = s.answer .misuse := by
  rw [State.turnOff, hoff]

/-- `turn_off` elsewhere (R358). -/
theorem turnOff_of_not_off (hon : s.engine ≠ .off) :
    s.turnOff = { s with
      a := 0, x := 0, y := 0, sp := 0, p := 0, pc := 0
      resetPending := false, nmiPending := false, irqAsserted := false
      nmiLineHigh := false, resetLineHigh := false
      engine := .off, reply := .done } := by
  unfold State.turnOff
  split
  case h_1 hoff => exact absurd hoff hon
  all_goals rfl

/-- A configuration call in Off (R361). -/
theorem configure_of_off (c : Settings) (hoff : s.engine = .off) : s.configure c = { s with cfg := c, reply := .done } := by
  rw [State.configure, hoff]

/-- A configuration call elsewhere is refused (R361). -/
theorem configure_of_not_off (c : Settings) (hon : s.engine ≠ .off) : s.configure c = s.answer .refused := by
  unfold State.configure
  split
  case h_1 hoff => exact absurd hoff hon
  all_goals rfl

/-- The host may touch memory but while the core may run (R361). -/
theorem hostMayAccess_iff (e : Engine) : hostMayAccess e = true ↔ e ≠ .running ∧ e ≠ .paused := by
  cases e <;> simp [hostMayAccess]

end Lifecycle

/-- Settles O51: each call in Off and elsewhere; the P of `turn_on` has B and U as 1. -/
theorem lifecycleCalls : Obligations.LifecycleCalls := by
  intro s l
  refine ⟨fun hschedule => ?turnOn, fun hschedule => ?turnOff⟩ <;> rw [step_of_hostTurn hschedule]
  case turnOn =>
    refine ⟨fun hoff => ⟨withBU s.p, congrArg _ (turnOn_of_off hoff), fun f => ?_⟩,
      fun hon => congrArg _ (turnOn_of_not_off hon)⟩
    rw [getFlag_withBU, Bool.or_comm]
  case turnOff =>
    exact ⟨fun hoff => congrArg _ (turnOff_of_off hoff), fun hon => congrArg _ (turnOff_of_not_off hon)⟩

/-- Settles O52: the four configuration calls by the rule of `configure`, and a memory access by the engine states that allow
it. -/
theorem hostConfiguresAndAccessesMemory : Obligations.HostConfiguresAndAccessesMemory := by
  intro s l op hschedule
  rw [step_of_hostTurn hschedule]
  have hrefused (hbusy : s.engine = .running ∨ s.engine = .paused) : ¬hostMayAccess s.engine = true := by
    rw [hostMayAccess_iff]; tauto
  have hallowed (hrunning : s.engine ≠ .running) (hpaused : s.engine ≠ .paused) : hostMayAccess s.engine = true :=
    (hostMayAccess_iff _).mpr ⟨hrunning, hpaused⟩
  refine ⟨fun c hcall => ?configure, fun d hcall => ?period, fun a v hcall => ?write, fun a hcall => ?read⟩
  case configure =>
    have hconfigure : hostStep op (s.setSchedule l) = (s.setSchedule l).configure c := by
      rcases hcall with ⟨rfl, rfl⟩ | ⟨rfl, rfl⟩ | ⟨b, rfl, rfl⟩ | ⟨b, rfl, rfl⟩ <;> rfl
    rw [hconfigure]
    exact ⟨fun hoff => congrArg _ (configure_of_off c hoff), fun hon => congrArg _ (configure_of_not_off c hon)⟩
  case period => subst hcall; rfl
  case write =>
    subst hcall
    refine ⟨fun hbusy => congrArg _ (if_neg (hrefused hbusy)), fun hrunning hpaused => ?_⟩
    exact ⟨_, congrArg _ (if_pos (hallowed hrunning hpaused)), write_wrote { s with schedule := l, reply := .done } a v⟩
  case read =>
    subst hcall
    exact ⟨fun hbusy => congrArg _ (if_neg (hrefused hbusy)),
      fun hrunning hpaused => congrArg _ (if_pos (hallowed hrunning hpaused))⟩

/-- Two states have the same engine state and registers. -/
def State.sameCore (s t : State) : Prop :=
  t.engine = s.engine ∧ t.a = s.a ∧ t.x = s.x ∧ t.y = s.y ∧ t.sp = s.sp ∧ t.p = s.p ∧ t.pc = s.pc

/-- With the core on, `turn_off` is the one host operation that writes the engine state or a register. -/
theorem hostStep_sameCore {s : State} {op : HostOp} (hon : s.engine ≠ .off) (hop : op ≠ .turnOff) :
    s.sameCore (hostStep op s) := by
  have hsame : s.sameCore s := ⟨rfl, rfl, rfl, rfl, rfl, rfl, rfl⟩
  cases op with
  | turnOn =>
    rw [hostStep, turnOn_of_not_off hon]
    exact hsame
  | turnOff => exact absurd rfl hop
  | failOnUnimplemented | nopOnUnimplemented | vendorExtensions b | pauseExtensions b =>
    rw [hostStep, configure_of_not_off _ hon]
    exact hsame
  | memRead a =>
    rw [hostStep, State.hostRead]
    split_ifs <;> exact hsame
  | memWrite a v =>
    rw [hostStep, State.hostWrite]
    split_ifs <;> exact hsame
  | resetLow | resetHigh | nmiLow | nmiHigh | irqLow | irqHigh | changePeriod d => exact hsame

/-- Settles O59: the core's turn has no step in Faulted, and of the host's operations `turn_off` alone writes what a fault
left. -/
theorem faultedIsLeftByTurnOffAlone : Obligations.FaultedIsLeftByTurnOffAlone := by
  intro s addr op hfaulted
  have hrecord {t : State} (hsame : s.sameCore t) :
      t.engine = .faulted addr op ∧ t.faultRecord = some (.unimplementedInstruction addr op) ∧
        t.a = s.a ∧ t.x = s.x ∧ t.y = s.y ∧ t.sp = s.sp ∧ t.p = s.p ∧ t.pc = s.pc := by
    obtain ⟨hengine, hregisters⟩ := hsame
    have hstill : t.engine = .faulted addr op := hengine.trans hfaulted
    exact ⟨hstill, by rw [State.faultRecord, hstill], hregisters⟩
  rcases coreTurn_or_hostTurn s with hturn | ⟨hop, l, hschedule⟩
  · have hstep : step s = .next s.turnTaken :=
      (step_of_coreTurn hturn).trans (coreStep_faulted (s := s.turnTaken) hfaulted)
    refine ⟨s.turnTaken, hstep, fun ⟨l, hhost⟩ => absurd hturn (not_coreTurn_of_hostTurn hhost),
      fun _ => hrecord ⟨rfl, rfl, rfl, rfl, rfl, rfl, rfl⟩, fun _ => rfl⟩
  · have hon : s.engine ≠ .off := by rw [hfaulted]; exact Engine.noConfusion
    refine ⟨_, step_of_hostTurn hschedule, ?_, fun hno => ?_,
      fun hturn => absurd hturn (not_coreTurn_of_hostTurn hschedule)⟩
    · rintro ⟨l', hoff⟩
      cases hschedule.symm.trans hoff
      exact congrArg State.engine (turnOff_of_not_off (s := s.setSchedule l) hon)
    · have hop_ne : hop ≠ .turnOff := by rintro rfl; exact hno ⟨l, hschedule⟩
      exact hrecord (hostStep_sameCore (s := s.setSchedule l) hon hop_ne)

end Sys2Proof.Machine

/-! Words of the spec's "Encoding:" lines (spec/30_encoding.md section 5): each is the encoding of a well-formed instruction. -/

namespace Sys2Proof.Machine

/-- A word that is an instruction's encoding decodes to the instruction, with nothing left. -/
theorem decode_of_encode {ext : Extensions} {i : Instr} {bs : List Byte} (hwf : i.wf ext = true) (hencode : encode i = bs) :
    decode ext bs = .ok i [] := by
  rw [← hencode, ← List.append_nil (encode i)]
  exact encodeThenDecodeGivesInstruction ext i [] hwf

/-- Settles O3: thirteen words by their encodings, and three bytes of the unimplemented path with what follows them. -/
theorem specWordsDecode : Obligations.SpecWordsDecode :=
  ⟨decode_of_encode rfl rfl, decode_of_encode rfl rfl, decode_of_encode rfl rfl, decode_of_encode rfl rfl,
    decode_of_encode rfl rfl, decode_of_encode rfl rfl, decode_of_encode rfl rfl, decode_of_encode rfl rfl,
    decode_of_encode rfl rfl, decode_of_encode rfl rfl, decode_of_encode rfl rfl, decode_of_encode rfl rfl,
    decode_of_encode rfl rfl, encodeThenDecodeGivesInstruction ⟨false, true⟩ (.unimpl 0x37) [0x10] rfl,
    encodeThenDecodeGivesInstruction ⟨true, false⟩ (.unimpl 0xDB) [] rfl,
    encodeThenDecodeGivesInstruction ⟨true, true⟩ (.unimpl 0x5C) [0x11, 0x22] rfl⟩

end Sys2Proof.Machine

/-! Memory reads (spec/20_memory.md R51, R53, R65) and the operand resolver (spec/30_encoding.md R84 to R97, R130). -/

namespace Sys2Proof.Machine

/-- Settles O6, by induction on the writes with the last one first. -/
theorem readGivesTheLastWrite : Obligations.ReadGivesTheLastWrite := by
  intro s ws a
  induction ws using List.reverseRecOn with
  | nil => rfl
  | append_singleton ws w ih =>
    rw [List.foldl_append, List.reverse_append, List.foldl_cons, List.foldl_nil, read_write, ih]
    by_cases ha : a = w.1
    · simp [ha]
    · simp [ha, Ne.symm ha]

/-- Settles O7. -/
theorem wordReadIsLittleEndian : Obligations.WordReadIsLittleEndian := fun _ _ _ hnext => readWord_toNat_of_toNat hnext

/-- A zero-page index wraps within the page (R90, R91, R95). -/
theorem zext16_add_toNat (z v : Byte) : (zext16 (z + v)).toNat = (z.toNat + v.toNat) % 256 := by
  rw [zext16_toNat, BitVec.toNat_add]

/-- A zero-page pointer in numbers (R84). -/
theorem zpPtr_toNat (s : State) (q : Byte) :
    (s.zpPtr q).toNat = 256 * (s.read (zpPtrHigh s.cfg.zpPtrWrap q)).toNat + (s.read (zext16 q)).toNat := by
  rw [State.zpPtr, wordOf_toNat, Nat.mul_comm]

/-- Settles O8: zero-page and absolute indexing in numbers, and the pointer modes by the law of the pointer. -/
theorem effectiveAddressOfEveryMode : Obligations.EffectiveAddressOfEveryMode := by
  intro s z w pointer
  have hpointer (q : Byte) (hi : Word) : pointer q hi := by
    intro hhi
    obtain rfl : hi = zpPtrHigh s.cfg.zpPtrWrap q := BitVec.eq_of_toNat_eq (hhi.trans (zpPtrHigh_toNat _ _).symm)
    exact zpPtr_toNat s q
  have hizx (q : Byte) (hq : q.toNat = (z.toNat + s.x.toNat) % 256) : s.ea (.izx z) = s.zpPtr q := by
    obtain rfl : q = z + s.x := BitVec.eq_of_toNat_eq (hq.trans (BitVec.toNat_add z s.x).symm)
    rfl
  exact ⟨zext16_toNat z, zext16_add_toNat z s.x, zext16_add_toNat z s.y, rfl, add_zext16_toNat w s.x,
    add_zext16_toNat w s.y, hpointer, hizx, add_zext16_toNat (s.zpPtr z) s.y, rfl, rfl, fun _ => rfl⟩

end Sys2Proof.Machine

/-! The loads and the stores of a register (spec/40_load_store_transfer.md R131 to R137). -/

namespace Sys2Proof.Machine

section LoadStore

variable (s : State) (o : Operand) (m : Addr)

/-- LDA loads A with its operand (R131). -/
theorem exec_lda : exec (.lda o) s = .next (s.loadA (s.operand o)) := rfl

/-- LDX loads X with its operand (R132). -/
theorem exec_ldx : exec (.ldx o) s = .next (s.loadX (s.operand o)) := rfl

/-- LDY loads Y with its operand (R133). -/
theorem exec_ldy : exec (.ldy o) s = .next (s.loadY (s.operand o)) := rfl

/-- STA writes A at the effective address (R134). -/
theorem exec_sta : exec (.sta m) s = .next (s.write (s.ea m) s.a) := rfl

/-- STX writes X at the effective address (R135). -/
theorem exec_stx : exec (.stx m) s = .next (s.write (s.ea m) s.x) := rfl

/-- STY writes Y at the effective address (R136). -/
theorem exec_sty : exec (.sty m) s = .next (s.write (s.ea m) s.y) := rfl

/-- STZ writes zero at the effective address (R137). -/
theorem exec_stz : exec (.stz m) s = .next (s.write (s.ea m) 0x00) := rfl

end LoadStore

/-- Settles O9: the three are loads of their operand, by the rule of their destination. -/
theorem loadsFillRegisterAndSetNZ : Obligations.LoadsFillRegisterAndSetNZ := fun s o =>
  ⟨wroteNZ_of_exec_eq_loadA (exec_lda s o), wroteNZ_of_exec_eq_loadX (exec_ldx s o),
    wroteNZ_of_exec_eq_loadY (exec_ldy s o)⟩

/-- Settles O10: the four are one write at the effective address. -/
theorem storesWriteOneByte : Obligations.StoresWriteOneByte := fun s m =>
  ⟨⟨_, exec_sta s m, write_wrote s _ _⟩, ⟨_, exec_stx s m, write_wrote s _ _⟩, ⟨_, exec_sty s m, write_wrote s _ _⟩,
    ⟨_, exec_stz s m, write_wrote s _ _⟩⟩

end Sys2Proof.Machine

/-! Add and subtract (spec/41_alu.md R160 to R167): the four adder primitives in numbers, and ADC and SBC as the choice among
them. -/

namespace Sys2Proof.Machine

section Binary

variable (a m : Byte) (c : Bool)

/-- The result of a binary addition as a number (R160). -/
theorem addBin_toNat : (addBin a m c).r.toNat = (a.toNat + m.toNat + c.toNat) % 256 := BitVec.toNat_ofNat ..

/-- A binary addition overflows exactly where the signed sum leaves the signed bytes (R160). -/
theorem addBin_overflow :
    (addBin a m c).overflow =
      decide (a.toInt + m.toInt + (c.toNat : Int) < -128 ∨ 127 < a.toInt + m.toInt + (c.toNat : Int)) := by
  have hr := addBin_toNat a m c
  have hsigns : (addBin a m c).overflow = addOverflow a m (addBin a m c).r := rfl
  have hc := c.toNat_le
  rw [hsigns, addOverflow_signs, decide_eq_decide, hr, BitVec.toInt_eq_toNat_cond, BitVec.toInt_eq_toNat_cond]
  split <;> split <;> omega

/-- A binary subtraction overflows exactly where the signed difference leaves the signed bytes (R161). -/
theorem subBin_overflow :
    (subBin a m c).overflow =
      decide (a.toInt - m.toInt - (1 - (c.toNat : Int)) < -128 ∨ 127 < a.toInt - m.toInt - (1 - (c.toNat : Int))) := by
  have hr := subBin_toNat a m c
  have hsigns : (subBin a m c).overflow = subOverflow a m (subBin a m c).r := rfl
  have hc := c.toNat_le
  rw [hsigns, subOverflow_signs, decide_eq_decide, BitVec.toInt_eq_toNat_cond, BitVec.toInt_eq_toNat_cond]
  split <;> split <;> omega

end Binary

section Decimal

variable {a m : Byte}

/-- A byte made of two decimal digits is valid, with the number of its digits. -/
theorem isBcd_of_digits {v : Byte} {hi lo : Nat} (hhi : hi ≤ 9) (hlo : lo ≤ 9) (hv : v.toNat = hi * 16 + lo) :
    isBcd v ∧ decVal v = 10 * hi + lo := by
  unfold isBcd decVal
  omega

/-- A digit sum above 9 carries ten into the next digit. -/
theorem digit_of_carry {n : Nat} (hn : n ≤ 19) :
    (if decide (9 < n) then n - 10 else n) ≤ 9 ∧
      n = (if decide (9 < n) then n - 10 else n) + 10 * (decide (9 < n)).toNat := by
  by_cases hcarry : 9 < n <;> simp [hcarry] <;> omega

/-- A digit difference below 0 borrows ten from the next digit. -/
theorem digit_of_borrow {n : Int} (hlow : -10 ≤ n) (hhigh : n ≤ 9) :
    ∃ d : Nat, d ≤ 9 ∧ (if decide (n < 0) then n + 10 else n) = d ∧ n = d - 10 * ((decide (n < 0)).toNat : Int) := by
  refine ⟨(if decide (n < 0) then n + 10 else n).toNat, ?_⟩
  by_cases hborrow : n < 0 <;> simp [hborrow] <;> omega

/-- Decimal addition on valid operands: two decimal digits and a carry of a hundred make the sum (R163). -/
theorem addDec_digits (c : Bool) (ha : isBcd a) (hm : isBcd m) :
    ∃ hi ≤ 9, ∃ lo ≤ 9, (addDec a m c).r.toNat = hi * 16 + lo ∧
      decVal a + decVal m + c.toNat = 100 * (addDec a m c).carry.toNat + 10 * hi + lo := by
  obtain ⟨ha_hi, ha_lo⟩ := ha
  obtain ⟨hm_hi, hm_lo⟩ := hm
  have hc := c.toNat_le
  obtain ⟨hlo_le, hlo⟩ := digit_of_carry (n := loNibble a + loNibble m + c.toNat) (by unfold loNibble; omega)
  have hhalf := (decide (9 < loNibble a + loNibble m + c.toNat)).toNat_le
  obtain ⟨hhi_le, hhi⟩ := digit_of_carry
    (n := hiNibble a + hiNibble m + (decide (9 < loNibble a + loNibble m + c.toNat)).toNat) (by unfold hiNibble; omega)
  refine ⟨_, hhi_le, _, hlo_le, ?_, ?_⟩
  · exact (BitVec.toNat_ofNat ..).trans (Nat.mod_eq_of_lt (by omega))
  · simp only [addDec, decVal]
    unfold loNibble hiNibble at *
    omega

/-- Decimal subtraction on valid operands: two decimal digits less a borrow of a hundred make the difference (R164). -/
theorem subDec_digits (c : Bool) (ha : isBcd a) (hm : isBcd m) :
    ∃ hi ≤ 9, ∃ lo ≤ 9, (subDec a m c).r.toNat = hi * 16 + lo ∧
      (decVal a : Int) - decVal m - (1 - (c.toNat : Int)) = 10 * hi + lo - 100 * ((!(subDec a m c).carry).toNat : Int) := by
  obtain ⟨ha_hi, ha_lo⟩ := ha
  obtain ⟨hm_hi, hm_lo⟩ := hm
  have hc := c.toNat_le
  obtain ⟨lo, hlo_le, hlo_eq, hlo⟩ := digit_of_borrow (n := (loNibble a : Int) - loNibble m - (1 - (c.toNat : Int)))
    (by unfold loNibble; omega) (by unfold loNibble; omega)
  have hhalf := (decide ((loNibble a : Int) - loNibble m - (1 - (c.toNat : Int)) < 0)).toNat_le
  obtain ⟨hi, hhi_le, hhi_eq, hhi⟩ := digit_of_borrow
    (n := (hiNibble a : Int) - hiNibble m -
      ((decide ((loNibble a : Int) - loNibble m - (1 - (c.toNat : Int)) < 0)).toNat : Int))
    (by unfold hiNibble; omega) (by unfold hiNibble; omega)
  refine ⟨hi, hhi_le, lo, hlo_le, ?_, ?_⟩
  · simp only [subDec, hlo_eq, hhi_eq, BitVec.toNat_ofInt]
    omega
  · simp only [subDec, decVal, Bool.not_not]
    unfold loNibble hiNibble at *
    omega

/-- A sum of a hundred's carry and two digits, modulo a hundred, is the two digits; it reaches a hundred on the carry. -/
theorem mod_hundred_of_digits {n hi lo : Nat} {carry : Bool} (hhi : hi ≤ 9) (hlo : lo ≤ 9)
    (hn : n = 100 * carry.toNat + 10 * hi + lo) : 10 * hi + lo = n % 100 ∧ carry = decide (100 ≤ n) := by
  cases carry <;> simp at hn ⊢ <;> omega

/-- A difference of two digits and a hundred's borrow, modulo a hundred, is the two digits; it is negative on the borrow. -/
theorem mod_hundred_of_borrow {n : Int} {hi lo : Nat} {carry : Bool} (hhi : hi ≤ 9) (hlo : lo ≤ 9)
    (hn : n = 10 * hi + lo - 100 * ((!carry).toNat : Int)) :
    ((10 * hi + lo : Nat) : Int) = n % 100 ∧ carry = decide (0 ≤ n) := by
  cases carry <;> simp at hn ⊢ <;> omega

end Decimal

section AddSub

variable {s : State} {i : Instr} {sum : Sum}

/-- ADC takes one of the two sums (R166). -/
theorem exec_adc (s : State) (o : Operand) : exec (.adc o) s = .next (s.addSub addBin addDec (s.operand o)) := rfl

/-- SBC takes one of the two differences (R167). -/
theorem exec_sbc (s : State) (o : Operand) : exec (.sbc o) s = .next (s.addSub subBin subDec (s.operand o)) := rfl

/-- An instruction that takes the outputs of an adder changes A, and C, V, Z and N of P. -/
theorem wroteCVNZ_of_exec_eq_takeSum {c v : Bool} (htake : exec i s = .next (s.takeSum sum)) (hc : sum.carry = c)
    (hv : sum.overflow = v) :
    ∃ p', exec i s = .next { s with a := sum.r, p := p' } ∧ WroteCVNZ c v sum.r s.p p' := by
  subst hc hv
  exact ⟨_, htake, setCVNZ_wrote _ _ _ _⟩

end AddSub

/-- Settles O12: ADC takes the binary sum. -/
theorem adcBinaryAddsWithSignedOverflow : Obligations.AdcBinaryAddsWithSignedOverflow := by
  intro s o hd sum signed
  have htake := exec_adc s o
  rw [addSub_binary _ _ _ hd] at htake
  obtain ⟨p', hnext, hflags⟩ := wroteCVNZ_of_exec_eq_takeSum htake rfl (addBin_overflow _ _ _)
  exact ⟨_, p', hnext, addBin_toNat _ _ _, hflags⟩

/-- Settles O13: SBC takes the binary difference. -/
theorem sbcBinarySubtractsWithSignedOverflow : Obligations.SbcBinarySubtractsWithSignedOverflow := by
  intro s o hd diff signed
  have htake := exec_sbc s o
  rw [addSub_binary _ _ _ hd] at htake
  obtain ⟨p', hnext, hflags⟩ := wroteCVNZ_of_exec_eq_takeSum htake rfl (subBin_overflow _ _ _)
  exact ⟨_, p', hnext, subBin_toNat _ _ _, hflags⟩

/-- Settles O14: on valid operands ADC takes the decimal sum. -/
theorem adcDecimalAddsBcd : Obligations.AdcDecimalAddsBcd := by
  intro s o hd ha hm sum
  have htake := exec_adc s o
  rw [addSub_decimal _ _ _ hd ((bcdValid_iff _).mpr ha) ((bcdValid_iff _).mpr hm)] at htake
  obtain ⟨hi, hhi, lo, hlo, hr, hsum⟩ := addDec_digits (s.flag .c) ha hm
  obtain ⟨hbcd, hval⟩ := isBcd_of_digits hhi hlo hr
  obtain ⟨hmod, hcarry⟩ := mod_hundred_of_digits hhi hlo hsum
  obtain ⟨p', hnext, hflags⟩ := wroteCVNZ_of_exec_eq_takeSum htake hcarry (addOverflow_signs _ _ _)
  exact ⟨_, p', hnext, hbcd, hval.trans hmod, hflags⟩

/-- Settles O15: on valid operands SBC takes the decimal difference. -/
theorem sbcDecimalSubtractsBcd : Obligations.SbcDecimalSubtractsBcd := by
  intro s o hd ha hm diff
  have htake := exec_sbc s o
  rw [addSub_decimal _ _ _ hd ((bcdValid_iff _).mpr ha) ((bcdValid_iff _).mpr hm)] at htake
  obtain ⟨hi, hhi, lo, hlo, hr, hdiff⟩ := subDec_digits (s.flag .c) ha hm
  obtain ⟨hbcd, hval⟩ := isBcd_of_digits hhi hlo hr
  obtain ⟨hmod, hcarry⟩ := mod_hundred_of_borrow hhi hlo hdiff
  obtain ⟨p', hnext, hflags⟩ := wroteCVNZ_of_exec_eq_takeSum htake hcarry (subOverflow_signs _ _ _)
  exact ⟨_, p', hnext, hbcd, (congrArg Nat.cast hval).trans hmod, hflags⟩

/-- Settles O16: on an invalid operand both draw. -/
theorem invalidBcdDrawsFreeValues : Obligations.InvalidBcdDrawsFreeValues := by
  intro s o hd hinvalid
  have hcheck : (bcdValid s.a && bcdValid (s.operand o)) = false := by
    rw [Bool.eq_false_iff, ne_eq, Bool.and_eq_true, bcdValid_iff, bcdValid_iff]
    exact hinvalid
  refine ⟨s.drawSum.p, drawSum_flags s, ?_, ?_⟩
  · rw [exec_adc, addSub_invalid _ _ _ hd hcheck, drawSum_frame]
  · rw [exec_sbc, addSub_invalid _ _ _ hd hcheck, drawSum_frame]

/-- The outputs of an adder are its three. -/
theorem sum_ext {u v : Sum} (hr : u.r = v.r) (hcarry : u.carry = v.carry) (hoverflow : u.overflow = v.overflow) : u = v := by
  cases u; cases v; simp_all

/-- The complement of a byte in numbers. -/
theorem byte_xor_ff_toNat (m : Byte) : (m ^^^ 0xFF).toNat = 255 - m.toNat := by
  rw [show (0xFF : Byte) = BitVec.allOnes 8 from rfl, BitVec.xor_allOnes, BitVec.toNat_not]

/-- Settles O17: the complement of m is 255 - m, so the sum is the difference plus 256, and its signs are opposite. -/
theorem subtractIsAddOfComplement : Obligations.SubtractIsAddOfComplement := by
  intro a m c
  have hm := byte_xor_ff_toNat m
  have hresult : (subBin a m c).r = (addBin a (m ^^^ 0xFF) c).r := by
    apply BitVec.eq_of_toNat_eq
    have hadd := addBin_toNat a (m ^^^ 0xFF) c
    have hsub := subBin_toNat a m c
    omega
  have hcarry : (subBin a m c).carry = (addBin a (m ^^^ 0xFF) c).carry := by
    simp only [subBin, addBin, decide_eq_decide]
    omega
  have hoverflow : (subBin a m c).overflow = (addBin a (m ^^^ 0xFF) c).overflow := by
    have hsub : (subBin a m c).overflow = subOverflow a m (subBin a m c).r := rfl
    have hadd : (addBin a (m ^^^ 0xFF) c).overflow = addOverflow a (m ^^^ 0xFF) (addBin a (m ^^^ 0xFF) c).r := rfl
    rw [hsub, hadd, hresult, subOverflow_signs, addOverflow_signs, decide_eq_decide, hm]
    omega
  exact sum_ext hresult hcarry hoverflow

end Sys2Proof.Machine

/-! Logic, bit tests, and the operations that read and write one memory byte (spec/41_alu.md R168 to R186). -/

namespace Sys2Proof.Machine

section Logic

variable (s : State) (o : Operand)

/-- AND loads A with the conjunction (R168). -/
theorem exec_and : exec (.and o) s = .next (s.loadA (s.a &&& s.operand o)) := rfl

/-- ORA loads A with the disjunction (R169). -/
theorem exec_ora : exec (.ora o) s = .next (s.loadA (s.a ||| s.operand o)) := rfl

/-- EOR loads A with the exclusive disjunction (R170). -/
theorem exec_eor : exec (.eor o) s = .next (s.loadA (s.a ^^^ s.operand o)) := rfl

end Logic

/-- Settles O18: the three are loads of A with a bitwise operation of A and the operand. -/
theorem logicWorksBitByBit : Obligations.LogicWorksBitByBit := by
  intro s o
  obtain ⟨pAnd, hand, handNZ⟩ := wroteNZ_of_exec_eq_loadA (exec_and s o)
  obtain ⟨pOra, hora, horaNZ⟩ := wroteNZ_of_exec_eq_loadA (exec_ora s o)
  obtain ⟨pEor, heor, heorNZ⟩ := wroteNZ_of_exec_eq_loadA (exec_eor s o)
  exact ⟨⟨_, pAnd, hand, handNZ, fun _ _ => BitVec.getLsbD_and⟩, ⟨_, pOra, hora, horaNZ, fun _ _ => BitVec.getLsbD_or⟩,
    ⟨_, pEor, heor, heorNZ, fun _ _ => BitVec.getLsbD_xor⟩⟩

/-- BIT writes P alone (R175). -/
theorem exec_bit (s : State) (m : Addr) : exec (.bit m) s = .next (s.setP (setBit s.a (s.read (s.ea m)) s.p)) := rfl

/-- BIT # writes P alone (R176). -/
theorem exec_bitImm (s : State) (v : Byte) : exec (.bitImm v) s = .next (s.setP (setTestZ s.a v s.p)) := rfl

/-- A bit test writes Z alone, from the conjunction (R176, R185, R186). -/
theorem setTestZ_wrote (acc m p : Byte) : WroteFlag .z (decide (acc &&& m = 0)) p (setTestZ acc m p) := by
  rw [← beq_eq_decide]
  exact setFlag_wrote _ _ _

/-- BIT's memory modes, flag by flag (R175). -/
theorem getFlag_setBit (f : Flag) (acc m p : Byte) :
    getFlag f (setBit acc m p) =
      if f = .v then m.getLsbD 6 else if f = .n then m.getLsbD 7
      else if f = .z then decide (acc &&& m = 0) else getFlag f p := by
  rw [setBit, getFlag_setFlag, getFlag_setFlag, setTestZ_wrote acc m p f]

/-- Settles O20: both forms write P alone, the memory modes by `setBit` and the immediate form by the test of Z. -/
theorem bitTestsOperand : Obligations.BitTestsOperand := by
  intro s m v
  refine ⟨⟨_, exec_bit s m, fun f => ?_⟩, _, exec_bitImm s v, setTestZ_wrote s.a v s.p⟩
  rw [getFlag_setBit]
  cases f <;> rfl

section Modify

variable (s : State) (m : Addr)

/-- INC on memory counts the byte at the effective address up (R177). -/
theorem exec_inc : exec (.inc m) s = .next (s.modifyNZ (s.ea m) (· + 1)) := rfl

/-- DEC on memory counts the byte at the effective address down (R181). -/
theorem exec_dec : exec (.dec m) s = .next (s.modifyNZ (s.ea m) (· - 1)) := rfl

/-- TSB sets the bits of A in the byte at the effective address (R185). -/
theorem exec_tsb : exec (.tsb m) s = .next (s.testModify (s.ea m) (· ||| s.a)) := rfl

/-- TRB clears the bits of A in the byte at the effective address (R186). -/
theorem exec_trb : exec (.trb m) s = .next (s.testModify (s.ea m) (· &&& (s.a ^^^ 0xFF))) := rfl

/-- A modification with N and Z writes P and then the one byte. -/
theorem modifyNZ_eq (a : Word) (f : Byte → Byte) :
    s.modifyNZ a f = ({ s with p := setNZ (f (s.read a)) s.p }).write a (f (s.read a)) := rfl

/-- A modification with a test writes P and then the one byte. -/
theorem testModify_eq (a : Word) (f : Byte → Byte) :
    s.testModify a f = ({ s with p := setTestZ s.a (s.read a) s.p }).write a (f (s.read a)) := rfl

end Modify

/-- Settles O21: both are one modification at the effective address, of a byte that counts modulo 256. -/
theorem incDecMemory : Obligations.IncDecMemory := by
  intro s m changed
  have changed_of_exec {i : Instr} {n : Nat} {f : Byte → Byte} (hexec : exec i s = .next (s.modifyNZ (s.ea m) f))
      (hn : (f (s.read (s.ea m))).toNat = n) : changed i n := by
    rw [modifyNZ_eq] at hexec
    exact ⟨_, _, _, hexec, hn, setNZ_wrote _ _, write_wrote _ _ _⟩
  exact ⟨changed_of_exec (exec_inc s m) (byte_add_one_toNat _), changed_of_exec (exec_dec s m) (byte_sub_one_toNat _)⟩

/-- Settles O23: both are one modification at the effective address, bit by bit. -/
theorem testAndSetOrResetBits : Obligations.TestAndSetOrResetBits := by
  intro s m tested
  have tested_of_exec {i : Instr} {g : Bool → Bool → Bool} {f : Byte → Byte}
      (hexec : exec i s = .next (s.testModify (s.ea m) f))
      (hbits : ∀ k < 8, (f (s.read (s.ea m))).getLsbD k = g ((s.read (s.ea m)).getLsbD k) (s.a.getLsbD k)) :
      tested i g := by
    rw [testModify_eq] at hexec
    exact ⟨_, _, _, hexec, setTestZ_wrote _ _ _, write_wrote _ _ _, hbits⟩
  refine ⟨tested_of_exec (exec_tsb s m) fun _ _ => BitVec.getLsbD_or,
    tested_of_exec (g := fun x a => x && !a) (exec_trb s m) fun k hk => ?_⟩
  have hmask : s.a ^^^ 0xFF = ~~~s.a := BitVec.xor_allOnes
  rw [hmask, BitVec.getLsbD_and, BitVec.getLsbD_not, decide_eq_true hk, Bool.true_and]

end Sys2Proof.Machine

/-! The shifts and rotates (spec/42_shift_rotate.md R200 to R204): each movement in numbers, on A or on a memory byte. -/

namespace Sys2Proof.Machine

section Movement

variable (v : Byte) (c : Bool)

/-- Bit 7 of a byte in numbers. -/
theorem getLsbD_seven : v.getLsbD 7 = decide (128 ≤ v.toNat) := byte_msb v

/-- Bit 0 of a byte in numbers. -/
theorem getLsbD_zero : v.getLsbD 0 = decide (v.toNat % 2 = 1) := Nat.testBit_zero _

/-- A byte moved up by one bit. -/
theorem shiftLeft_one_toNat : (v <<< 1).toNat = 2 * v.toNat % 256 := by
  rw [BitVec.toNat_shiftLeft, Nat.shiftLeft_eq, Nat.mul_comm]

/-- A byte moved down by one bit. -/
theorem ushiftRight_one_toNat : (v >>> 1).toNat = v.toNat / 2 := by
  rw [BitVec.toNat_ushiftRight, Nat.shiftRight_eq_div_pow]

/-- ROL takes the carry in at bit 0 (R203). -/
theorem rolByte_toNat : (rolByte v c).1.toNat = (2 * v.toNat + c.toNat) % 256 := by
  have hshift := shiftLeft_one_toNat v
  cases c with
  | false => simpa [rolByte] using hshift
  | true =>
    have hor : (rolByte v true).1.toNat = (v <<< 1).toNat ||| 1 := BitVec.toNat_or ..
    have hadd := Nat.two_pow_add_eq_or_of_lt (i := 1) (b := 1) (by decide) (v.toNat % 128)
    have heven : (v <<< 1).toNat = 2 ^ 1 * (v.toNat % 128) := by omega
    rw [hor, heven, ← hadd, Bool.toNat_true]
    omega

/-- ROR takes the carry in at bit 7 (R204). -/
theorem rorByte_toNat : (rorByte v c).1.toNat = v.toNat / 2 + 128 * c.toNat := by
  have hshift := ushiftRight_one_toNat v
  cases c with
  | false => simpa [rorByte] using hshift
  | true =>
    have hor : (rorByte v true).1.toNat = 2 ^ 7 * 1 ||| (v >>> 1).toNat := BitVec.toNat_or ..
    have hlt : (v >>> 1).toNat < 2 ^ 7 := by omega
    rw [hor, ← Nat.two_pow_add_eq_or_of_lt hlt, hshift, Bool.toNat_true]
    omega

end Movement

section Shift

variable (s : State) (t : Target)

/-- ASL moves its target up (R201). -/
theorem exec_asl : exec (.asl t) s = .next (s.shiftOp aslByte t) := rfl

/-- LSR moves its target down (R202). -/
theorem exec_lsr : exec (.lsr t) s = .next (s.shiftOp lsrByte t) := rfl

/-- ROL moves its target up, through C (R203). -/
theorem exec_rol : exec (.rol t) s = .next (s.shiftOp rolByte t) := rfl

/-- ROR moves its target down, through C (R204). -/
theorem exec_ror : exec (.ror t) s = .next (s.shiftOp rorByte t) := rfl

end Shift

/-- Settles O24: an accumulator form writes A and P, and the four movements are known in numbers. -/
theorem shiftsOnTheAccumulator : Obligations.ShiftsOnTheAccumulator := by
  intro s shifted v c
  have shifted_of_exec {i : Instr} {f : Byte → Bool → Byte × Bool} {n : Nat} {co : Bool}
      (hexec : exec i s = .next (s.shiftOp f .acc)) (hn : (f s.a (s.flag .c)).1.toNat = n)
      (hco : (f s.a (s.flag .c)).2 = co) : shifted i n co := by
    rw [shiftOp_acc, hco] at hexec
    exact ⟨_, _, hexec, hn, setCNZ_wrote _ _ _⟩
  exact ⟨shifted_of_exec (exec_asl s .acc) (shiftLeft_one_toNat _) (getLsbD_seven _),
    shifted_of_exec (exec_lsr s .acc) (ushiftRight_one_toNat _) (getLsbD_zero _),
    shifted_of_exec (exec_rol s .acc) (rolByte_toNat _ _) (getLsbD_seven _),
    shifted_of_exec (exec_ror s .acc) (rorByte_toNat _ _) (getLsbD_zero _)⟩

/-- A shift on memory writes P and then the one byte (R200). -/
theorem shiftOp_mem_eq_write (s : State) (f : Byte → Bool → Byte × Bool) (m : Addr) :
    let moved := f (s.read (s.ea m)) (s.flag .c)
    s.shiftOp f (.mem m) = ({ s with p := setCNZ moved.2 moved.1 s.p }).write (s.ea m) moved.1 := rfl

/-- Settles O25: a memory form writes P and one byte, and the four movements are known in numbers. -/
theorem shiftsOnMemory : Obligations.ShiftsOnMemory := by
  intro s m shifted v c
  have shifted_of_exec {i : Instr} {f : Byte → Bool → Byte × Bool} {n : Nat} {co : Bool}
      (hexec : exec i s = .next (s.shiftOp f (.mem m))) (hn : (f (s.read (s.ea m)) (s.flag .c)).1.toNat = n)
      (hco : (f (s.read (s.ea m)) (s.flag .c)).2 = co) : shifted i n co := by
    rw [shiftOp_mem_eq_write, hco] at hexec
    exact ⟨_, _, _, hexec, hn, setCNZ_wrote _ _ _, write_wrote _ _ _⟩
  exact ⟨shifted_of_exec (exec_asl s (.mem m)) (shiftLeft_one_toNat _) (getLsbD_seven _),
    shifted_of_exec (exec_lsr s (.mem m)) (ushiftRight_one_toNat _) (getLsbD_zero _),
    shifted_of_exec (exec_rol s (.mem m)) (rolByte_toNat _ _) (getLsbD_seven _),
    shifted_of_exec (exec_ror s (.mem m)) (rorByte_toNat _ _) (getLsbD_zero _)⟩

end Sys2Proof.Machine

/-! Pushes and pulls in a row (spec/44_stack.md R250): the stack slots of N pushes, and the bytes of N pulls. -/

namespace Sys2Proof.Machine

/-- Counting down one and then k is counting down k + 1. -/
theorem sub_one_sub_ofNat (v : Byte) (k : Nat) : v - 1 - BitVec.ofNat 8 k = v - BitVec.ofNat 8 (k + 1) := by
  rw [BitVec.sub_sub, BitVec.ofNat_add, BitVec.add_comm]
  rfl

/-- Counting up one and then k is counting up k + 1. -/
theorem add_one_add_ofNat (v : Byte) (k : Nat) : v + 1 + BitVec.ofNat 8 k = v + BitVec.ofNat 8 (k + 1) := by
  rw [BitVec.add_assoc, BitVec.ofNat_add, BitVec.add_comm 1]
  rfl

section PushAll

variable (s : State) (l : List Byte)

/-- Pushes change memory and S alone. -/
theorem pushAll_frame :
    s.pushAll l = { s with mem := (s.pushAll l).mem, sp := s.sp - BitVec.ofNat 8 l.length } := by
  induction l generalizing s with
  | nil => simp [State.pushAll]
  | cons v rest ih =>
    rw [State.pushAll, ih (s.push v), List.length_cons, ← sub_one_sub_ofNat]
    rfl

/-- Pushes leave every byte but their own slots. -/
theorem pushAll_read_of_ne {b : Word} (hb : ∀ k < l.length, b ≠ stackAddr (s.sp - BitVec.ofNat 8 k)) :
    (s.pushAll l).read b = s.read b := by
  induction l generalizing s with
  | nil => rfl
  | cons v rest ih =>
    have hfirst : b ≠ stackAddr s.sp := by simpa using hb 0 (Nat.succ_pos _)
    have hrest : ∀ k < rest.length, b ≠ stackAddr (s.sp - 1 - BitVec.ofNat 8 k) := by
      intro k hk
      rw [sub_one_sub_ofNat]
      exact hb (k + 1) (Nat.succ_lt_succ hk)
    rw [State.pushAll, ih (s.push v) hrest, push_read, if_neg hfirst]

/-- The first slot is none of the next 255. -/
theorem stackAddr_ne_sub_ofNat (sp : Byte) {k : Nat} (hk : k < 255) :
    stackAddr sp ≠ stackAddr (sp - 1 - BitVec.ofNat 8 k) := by
  rw [ne_eq, stackAddr_inj]
  bv_omega

/-- Each push of at most 256 stands in its own slot. -/
theorem pushAll_read_slot (hl : l.length ≤ 256) {k : Nat} (hk : k < l.length) :
    (s.pushAll l).read (stackAddr (s.sp - BitVec.ofNat 8 k)) = l[k] := by
  induction l generalizing s k with
  | nil => cases hk
  | cons v rest ih =>
    rw [List.length_cons] at hl hk
    cases k with
    | zero =>
      have hkept := pushAll_read_of_ne (s.push v) rest (b := stackAddr s.sp)
        fun j hj => stackAddr_ne_sub_ofNat s.sp (by omega)
      have hslot : s.sp - BitVec.ofNat 8 0 = s.sp := BitVec.sub_zero _
      rw [State.pushAll, hslot, hkept, push_read, if_pos rfl]
      rfl
    | succ k =>
      rw [← sub_one_sub_ofNat]
      exact ih (s.push v) (by omega) (by omega)

/-- Pulls give the bytes above S in turn, and change S alone. -/
theorem pullMany_eq (n : Nat) :
    s.pullMany n =
      ((List.range n).map fun k => s.read (stackAddr (s.sp + BitVec.ofNat 8 (k + 1))), s.setSp (s.sp + BitVec.ofNat 8 n)) := by
  induction n generalizing s with
  | zero => simp [State.pullMany, State.setSp]
  | succ n ih =>
    rw [State.pullMany, pull_eq]
    simp only [ih, add_one_add_ofNat, List.range_succ_eq_map, List.map_cons, List.map_map]
    rfl

end PushAll

/-- Settles O29: the n-th byte pulled is read from the slot of the n-th last push, and a byte outside page 1 is no slot. -/
theorem pushesThenPullsReverse : Obligations.PushesThenPullsReverse := by
  intro s l hl t
  have hsp : (s.pushAll l).sp = s.sp - BitVec.ofNat 8 l.length := congrArg State.sp (pushAll_frame s l)
  have ht : t = _ := pullMany_eq (s.pushAll l) l.length
  rw [hsp, BitVec.sub_add_cancel] at ht
  rw [ht]
  refine ⟨?bytes, ?frame, fun b hb => ?memory⟩
  case bytes =>
    refine List.ext_getElem (by simp) fun k hk hk' => ?_
    rw [List.length_reverse] at hk'
    have hslot : s.sp - BitVec.ofNat 8 l.length + BitVec.ofNat 8 (k + 1) = s.sp - BitVec.ofNat 8 (l.length - 1 - k) := by
      bv_omega
    rw [List.getElem_map, List.getElem_range, List.getElem_reverse, hslot]
    exact pushAll_read_slot s l hl (by omega)
  case frame => rw [pushAll_frame s l]; rfl
  case memory =>
    refine pushAll_read_of_ne s l fun k _ => ?_
    rintro rfl
    rw [stackAddr_toNat] at hb
    omega

end Sys2Proof.Machine

/-! Leaving what was entered (spec/45_control.md R274 to R276, spec/60_exceptions.md R353 to R357). -/

namespace Sys2Proof.Machine

/-- A word pull after a word push, with S and the memory as the push left them, gives the word and the S from before. -/
theorem pullWord_of_pushed {s t : State} {w : Word} (hsp : t.sp = s.sp - 2) (hmem : t.mem = (s.pushWord w).mem) :
    t.pullWord = (w, t.setSp s.sp) := by
  have hlo : t.sp + 1 = s.sp - 1 := by bv_omega
  have hhi : t.sp + 1 + 1 = s.sp := by bv_omega
  have hne : stackAddr s.sp ≠ stackAddr (s.sp - 1) := by rw [ne_eq, stackAddr_inj]; bv_omega
  have hread (b : Word) : t.read b = (s.pushWord w).read b := by simp only [State.read, hmem]
  rw [pullWord_eq, hhi, hlo, hread, hread, pushWord_read, pushWord_read, if_neg hne, if_pos rfl, if_pos rfl,
    wordOf_hiByte_loByte]
  rfl

/-- Settles O36: RTS pulls the word that JSR pushed, and adds one. -/
theorem rtsReturnsFromJsr : Obligations.RtsReturnsFromJsr := by
  intro s w q
  obtain ⟨mem, sp, hpushed⟩ : ∃ mem sp, s.pushWord (s.pc - 1) = { s with mem := mem, sp := sp } :=
    ⟨_, _, pushWord_frame s (s.pc - 1)⟩
  have hpull : (((s.pushWord (s.pc - 1)).setPc w).setPc q).pullWord = (s.pc - 1, _) :=
    pullWord_of_pushed (s := s) (by rw [setPc_sp, setPc_sp, pushWord_sp]) (by rw [setPc_mem, setPc_mem])
  refine ⟨_, _, exec_jsr s w, exec_rts _, ?_⟩
  rw [hpull, BitVec.sub_add_cancel, hpushed]
  rfl

/-- RTI returns from an interrupt (R275). -/
theorem exec_rti (s : State) : exec .rti s = .next s.returnFromInterrupt := rfl

/-- BRK enters through the IRQ vector with B and U pushed as 1 (R276). -/
theorem exec_brk (sig : Byte) (s : State) : exec (.brk sig) s = .next (s.enterInterrupt (withBU s.p) true 0xFFFE) := rfl

/-- A return from an interrupt, at any address, after one was entered: P from the byte pushed, S and pc as before. -/
theorem returnFromInterrupt_of_entered {s t : State} {pushed : Byte} {masks : Bool} {vector : Word}
    (hentered : EnteredInterrupt s t pushed masks vector) (q : Word) :
    (t.setPc q).returnFromInterrupt = { s with mem := t.mem, p := withBU pushed } := by
  obtain ⟨p', hframe, -, hread⟩ := hentered
  obtain ⟨mem, pc, ht⟩ : ∃ mem pc, t = { s with mem := mem, sp := s.sp - 3, p := p', pc := pc } := ⟨_, _, hframe⟩
  have h1 : t.sp + 1 = s.sp - 2 := by rw [ht]; bv_omega
  have h2 : s.sp - 2 + 1 = s.sp - 1 := by bv_omega
  have h3 : s.sp - 1 + 1 = s.sp := BitVec.sub_add_cancel s.sp 1
  have hp : t.read (stackAddr (s.sp - 2)) = pushed := by
    rw [hread, stackAddr_toNat, if_neg (by bv_omega), if_neg (by bv_omega), if_pos rfl]
  have hlo : t.read (stackAddr (s.sp - 1)) = loByte s.pc := by
    rw [hread, stackAddr_toNat, if_neg (by bv_omega), if_pos rfl, ofNat_mod_byte]
  have hhi : t.read (stackAddr s.sp) = hiByte s.pc := by
    rw [hread, stackAddr_toNat, if_pos rfl, ofNat_div_byte]
  rw [returnFromInterrupt_eq]
  simp only [setPc_sp, setPc_read, h1, h2, h3, hp, hlo, hhi, wordOf_hiByte_loByte]
  rw [ht]
  rfl

/-- Settles O37: the return undoes the entry, and the P pushed comes back because B and U were stored as 1. -/
theorem rtiResumesAfterIrq : Obligations.RtiResumesAfterIrq := by
  intro s q hBU
  have hentered := enterInterrupt_entered s (irqPushedP s.p) true 0xFFFE
  refine ⟨_, exec_rti _, ?_⟩
  rw [State.irqService, returnFromInterrupt_of_entered hentered q, withBU_irqPushedP hBU.1 hBU.2]

/-- Settles O34: P from the first byte pulled and pc from the word after it, by the law of the return in numbers. -/
theorem rtiRestoresPAndPc : Obligations.RtiRestoresPAndPc := by
  intro s b1 b2 b3 hb1 hb2 hb3
  have h2 : s.sp + 1 + 1 = s.sp + 2 := BitVec.add_assoc s.sp 1 1
  have h3 : s.sp + 2 + 1 = s.sp + 3 := BitVec.add_assoc s.sp 2 1
  have hreturn := returnFromInterrupt_eq s
  rw [h2, h3, ← eq_stackAddr.mpr hb1, ← eq_stackAddr.mpr hb2, ← eq_stackAddr.mpr hb3] at hreturn
  refine ⟨_, _, (exec_rti s).trans (congrArg _ hreturn), ?_, fun f => ?_⟩
  · rw [wordOf_toNat, Nat.mul_comm]
  · rw [getFlag_withBU, Bool.or_comm]

/-- Settles O35: BRK enters the interrupt, with the pushed P flag by flag. -/
theorem brkEntersThroughTheIrqVector : Obligations.BrkEntersThroughTheIrqVector := by
  intro s sig
  refine ⟨_, withBU s.p, exec_brk sig s, enterInterrupt_entered _ _ _ _, fun f => ?_⟩
  rw [getFlag_withBU, Bool.or_comm]

/-- Settles O43: NMI service enters the interrupt once its latch is cleared. -/
theorem nmiServiceEntersHandler : Obligations.NmiServiceEntersHandler := fun s =>
  ⟨_, enterInterrupt_entered { s with nmiPending := false } _ s.cfg.nmiMasks 0xFFFA,
    fun f => getFlag_nmiPushedP f s.cfg.nmiPushB s.p⟩

/-- Settles O44: IRQ service enters the interrupt. -/
theorem irqServiceEntersHandler : Obligations.IrqServiceEntersHandler := fun s =>
  ⟨_, enterInterrupt_entered s _ true 0xFFFE, fun f => getFlag_irqPushedP f s.p⟩

end Sys2Proof.Machine

/-! The pause opcodes and the unimplemented path (spec/47_pause_unimplemented.md R321 to R324). -/

namespace Sys2Proof.Machine

/-- WAI pauses the engine (R322). -/
theorem exec_wai (s : State) : exec .wai s = .next s.pauseEngine := rfl

/-- STP pauses the engine (R323). -/
theorem exec_stp (s : State) : exec .stp s = .next s.pauseEngine := rfl

/-- Settles O40: both are the one operation, which writes the engine state alone. -/
theorem pauseOpcodesSuspend : Obligations.PauseOpcodesSuspend := fun s => ⟨exec_wai s, exec_stp s⟩

/-- The unimplemented path under Fail (R324, R341). -/
theorem exec_unimpl_of_fail {s : State} (op : Byte) (hpolicy : s.cfg.unimplPolicy = .fail) :
    exec (.unimpl op) s = .next (s.failUnimpl (s.pc - 1) op) := by
  have hexec : exec (.unimpl op) s = execUnimpl op s := rfl
  rw [hexec, execUnimpl, hpolicy]

/-- The unimplemented path under Nop (R324). -/
theorem exec_unimpl_of_nop {s : State} (op : Byte) (hpolicy : s.cfg.unimplPolicy = .nop) :
    exec (.unimpl op) s = .next (s.skipUnimpl (s.pc - 1) (unimplLength op)) := by
  have hexec : exec (.unimpl op) s = execUnimpl op s := rfl
  rw [hexec, execUnimpl, hpolicy]

/-- P_UNIMPL_LEN lies within its bounds (R324). -/
theorem unimplLength_bounds (op : Byte) : 1 ≤ unimplLength op ∧ unimplLength op ≤ 4 :=
  ⟨Nat.le_add_left 1 _, (Config.unimplLen op).isLt⟩

/-- Settles O41: the opcode stands one byte before pc, and each policy is one operation from there. -/
theorem unimplementedPathFaultsOrSkips : Obligations.UnimplementedPathFaultsOrSkips := by
  intro s op start hpc
  have hstart : s.pc - 1 = start := by
    apply BitVec.eq_of_toNat_eq
    rw [word_sub_one_toNat, hpc]
    omega
  obtain ⟨hlow, hhigh⟩ := unimplLength_bounds op
  refine ⟨fun hfail => ?fail, fun hnop => ?nop⟩
  case fail =>
    rw [exec_unimpl_of_fail op hfail, hstart]
    exact ⟨_, rfl, rfl, failUnimpl_faultRecord s start op⟩
  case nop =>
    rw [exec_unimpl_of_nop op hnop, hstart]
    refine ⟨_, unimplLength op, rfl, hlow, hhigh, rfl, ?_⟩
    rw [BitVec.toNat_add, BitVec.toNat_ofNat]
    omega

end Sys2Proof.Machine
